-- ==== Sys2Proof/Word.lean ====
section
/-! DEFINITION. The word types of the core (spec/00_scope.md R6, R9): everything is unsigned. -/

namespace Sys2Proof

/-- Four bits: one nibble of an opcode (30_encoding.md R71). -/
abbrev Nibble := BitVec 4

/-- Eight bits: a general register, a memory cell, a timer (00_scope.md R6). -/
abbrev Byte := BitVec 8

/-- Sixteen bits: the program counter, the index register, a call-stack slot, an opcode (00_scope.md R6). -/
abbrev Word16 := BitVec 16

/-- The number of a general register, of a call-stack slot or of a key: 0 to 15 (30_encoding.md R72). -/
abbrev Reg := Fin 16

/-- The 2048 one-bit cells of the display: bit k is cell k = x + 64 * y (10_state.md R32). -/
abbrev Display := BitVec 2048

/-- A value of the parameter FONT: 80 bytes (00_scope.md R7). -/
abbrev Font := Vector Byte 80

end Sys2Proof
end

