-- ==== Sys2Proof/Syntax.lean ====
section
/-! DEFINITION. The instructions: one constructor per row of spec/opcode_table.json, in its order
(30_encoding.md R75), with the operand fields of R72. Registers are `Reg`, immediates the bits of the field, the
sprite height a count whose range WellFormed.lean checks. -/

namespace Sys2Proof

/-- The 35 instructions of 30_encoding.md R75. -/
inductive Instr where
  /-- 0000: no-op (R100). -/
  | nop
  /-- 00E0: clear the display (R150). -/
  | cls
  /-- 00EE: return from subroutine (R101). -/
  | ret
  /-- 1nnn: jump (R102). -/
  | jp (nnn : BitVec 12)
  /-- 2nnn: call subroutine (R103). -/
  | call (nnn : BitVec 12)
  /-- 3xnn: skip if V[x] equals nn (R111). -/
  | sei (x : Reg) (nn : Byte)
  /-- 4xnn: skip if V[x] differs from nn (R112). -/
  | snei (x : Reg) (nn : Byte)
  /-- 5xy0: skip if V[x] equals V[y] (R113). -/
  | ser (x y : Reg)
  /-- 6xnn: load immediate (R121). -/
  | ldi (x : Reg) (nn : Byte)
  /-- 7xnn: add immediate, no flag (R122). -/
  | addi (x : Reg) (nn : Byte)
  /-- 8xy0: copy register (R123). -/
  | mov (x y : Reg)
  /-- 8xy1: bitwise or (R124). -/
  | or (x y : Reg)
  /-- 8xy2: bitwise and (R125). -/
  | and (x y : Reg)
  /-- 8xy3: bitwise exclusive or (R126). -/
  | xor (x y : Reg)
  /-- 8xy4: add with carry flag (R127). -/
  | add (x y : Reg)
  /-- 8xy5: subtract with not-borrow flag (R128). -/
  | sub (x y : Reg)
  /-- 8xy6: shift right one; y is encoded and ignored (R129, R74). -/
  | shr (x y : Reg)
  /-- 8xy7: reverse subtract (R130). -/
  | subn (x y : Reg)
  /-- 8xyE: shift left one; y is encoded and ignored (R131, R74). -/
  | shl (x y : Reg)
  /-- 9xy0: skip if V[x] differs from V[y] (R114). -/
  | sner (x y : Reg)
  /-- Annn: load the index register (R140). -/
  | ldix (nnn : BitVec 12)
  /-- Bnnn: jump to nnn plus V0 (R104). -/
  | jpv0 (nnn : BitVec 12)
  /-- Cxnn: random byte under a mask (R132). -/
  | rnd (x : Reg) (nn : Byte)
  /-- Dxyn: draw an n-row sprite (R151). -/
  | drw (x y : Reg) (n : Nat)
  /-- Ex9E: skip if the key named by V[x] is pressed (R115). -/
  | skp (x : Reg)
  /-- ExA1: skip if the key named by V[x] is released (R116). -/
  | sknp (x : Reg)
  /-- Fx07: read the delay timer (R160). -/
  | getdt (x : Reg)
  /-- Fx0A: wait for a key (R161). -/
  | waitk (x : Reg)
  /-- Fx15: set the delay timer (R162). -/
  | setdt (x : Reg)
  /-- Fx18: set the sound timer (R163). -/
  | setst (x : Reg)
  /-- Fx1E: add to the index register (R141). -/
  | addix (x : Reg)
  /-- Fx29: point I at a font glyph (R142). -/
  | font (x : Reg)
  /-- Fx33: store three decimal digits (R143). -/
  | bcd (x : Reg)
  /-- Fx55: store V[0] to V[x] (R144). -/
  | stm (x : Reg)
  /-- Fx65: load V[0] to V[x] (R145). -/
  | ldm (x : Reg)
  deriving DecidableEq, Repr

/-- The mnemonic of 30_encoding.md R75 and R81. -/
def Instr.mnemonic : Instr → String
  | .nop => "NOP" | .cls => "CLS" | .ret => "RET" | .jp _ => "JP" | .call _ => "CALL"
  | .sei _ _ => "SEI" | .snei _ _ => "SNEI" | .ser _ _ => "SER"
  | .ldi _ _ => "LDI" | .addi _ _ => "ADDI" | .mov _ _ => "MOV"
  | .or _ _ => "OR" | .and _ _ => "AND" | .xor _ _ => "XOR"
  | .add _ _ => "ADD" | .sub _ _ => "SUB" | .shr _ _ => "SHR" | .subn _ _ => "SUBN" | .shl _ _ => "SHL"
  | .sner _ _ => "SNER" | .ldix _ => "LDIX" | .jpv0 _ => "JPV0" | .rnd _ _ => "RND" | .drw _ _ _ => "DRW"
  | .skp _ => "SKP" | .sknp _ => "SKNP" | .getdt _ => "GETDT" | .waitk _ => "WAITK"
  | .setdt _ => "SETDT" | .setst _ => "SETST" | .addix _ => "ADDIX" | .font _ => "FONT"
  | .bcd _ => "BCD" | .stm _ => "STM" | .ldm _ => "LDM"

end Sys2Proof
end

