-- ==== Sys2Proof/WellFormed.lean ====
section
/-! DEFINITION. What an instruction must meet to have an encoding. Register numbers and immediates have the width
of their field by their type; the one field that is a count, the sprite height n of DRW, has the range of
spec/30_encoding.md R72 (4 bits, 0 to 15). -/

namespace Sys2Proof

/-- Every field is in the range of 30_encoding.md R72. -/
def Instr.wellFormed : Instr → Bool
  | .drw _ _ n => decide (n ≤ 15)
  | .nop | .cls | .ret | .jp _ | .call _ | .sei _ _ | .snei _ _ | .ser _ _ | .ldi _ _ | .addi _ _ | .mov _ _
  | .or _ _ | .and _ _ | .xor _ _ | .add _ _ | .sub _ _ | .shr _ _ | .subn _ _ | .shl _ _ | .sner _ _
  | .ldix _ | .jpv0 _ | .rnd _ _ | .skp _ | .sknp _ | .getdt _ | .waitk _ | .setdt _ | .setst _ | .addix _
  | .font _ | .bcd _ | .stm _ | .ldm _ => true

end Sys2Proof
end

