-- ==== Sys2Proof/Decode.lean ====
section
/-! DEFINITION. The decoder of spec/30_encoding.md R75, R76, total on any bytes and rejecting by name, the encoder
written from the same patterns, and the table of masks and match values they are held against. -/

namespace Sys2Proof

/-! ### Fields of an opcode (R71, R72) -/

/-- N3, the high-high nibble: op[15:12]. -/
def nib3 (op : Word16) : Nibble := op.extractLsb' 12 4
/-- N2, the high-low nibble: op[11:8]. -/
def nib2 (op : Word16) : Nibble := op.extractLsb' 8 4
/-- N1, the low-high nibble: op[7:4]. -/
def nib1 (op : Word16) : Nibble := op.extractLsb' 4 4
/-- N0, the low-low nibble: op[3:0]. -/
def nib0 (op : Word16) : Nibble := op.extractLsb' 0 4
/-- The field x, a register number: op[11:8]. -/
def xField (op : Word16) : Reg := (nib2 op).toFin
/-- The field y, a register number: op[7:4]. -/
def yField (op : Word16) : Reg := (nib1 op).toFin
/-- The field n, the sprite height: op[3:0]. -/
def nField (op : Word16) : Nat := (nib0 op).toNat
/-- The field nn, an 8-bit immediate: op[7:0]. -/
def nnField (op : Word16) : Byte := op.extractLsb' 0 8
/-- The field nnn, a 12-bit address: op[11:0]. -/
def nnnField (op : Word16) : BitVec 12 := op.extractLsb' 0 12

/-! ### Bytes of an opcode (R70) -/

/-- The word whose high byte is `hi`: `hi * 256 + lo` (20_memory.md R53). -/
def wordOfBytes (hi lo : Byte) : Word16 := hi ++ lo
/-- op[15:8], the byte at the lower address (R70). -/
def hiByte (op : Word16) : Byte := op.extractLsb' 8 8
/-- op[7:0], the byte at the higher address (R70). -/
def loByte (op : Word16) : Byte := op.extractLsb' 0 8
/-- The two bytes of a word as memory holds them, high byte first (R70). -/
def wordBytes (op : Word16) : List Byte := [hiByte op, loByte op]

/-! ### The decoder -/

/-- Why bytes are no instruction. -/
inductive Reject where
  /-- Fewer than the two bytes every instruction has (R70). -/
  | truncated
  /-- The word matches no row of R75 (R78). -/
  | invalidOpcode (op : Word16)
  deriving DecidableEq, Repr

/-- `Decode(op)` of 40_tick_cycle.md R93, following the procedure of R76. -/
def decodeWord (op : Word16) : Except Reject Instr :=
  let x := xField op
  let y := yField op
  let nn := nnField op
  let nnn := nnnField op
  let invalid : Except Reject Instr := .error (.invalidOpcode op)
  match (nib3 op).toNat with
  | 0x0 =>
    match op.toNat with
    | 0x0000 => .ok .nop
    | 0x00E0 => .ok .cls
    | 0x00EE => .ok .ret
    | _ => invalid
  | 0x1 => .ok (.jp nnn)
  | 0x2 => .ok (.call nnn)
  | 0x3 => .ok (.sei x nn)
  | 0x4 => .ok (.snei x nn)
  | 0x5 =>
    match (nib0 op).toNat with
    | 0x0 => .ok (.ser x y)
    | _ => invalid
  | 0x6 => .ok (.ldi x nn)
  | 0x7 => .ok (.addi x nn)
  | 0x8 =>
    match (nib0 op).toNat with
    | 0x0 => .ok (.mov x y)
    | 0x1 => .ok (.or x y)
    | 0x2 => .ok (.and x y)
    | 0x3 => .ok (.xor x y)
    | 0x4 => .ok (.add x y)
    | 0x5 => .ok (.sub x y)
    | 0x6 => .ok (.shr x y)
    | 0x7 => .ok (.subn x y)
    | 0xE => .ok (.shl x y)
    | _ => invalid
  | 0x9 =>
    match (nib0 op).toNat with
    | 0x0 => .ok (.sner x y)
    | _ => invalid
  | 0xA => .ok (.ldix nnn)
  | 0xB => .ok (.jpv0 nnn)
  | 0xC => .ok (.rnd x nn)
  | 0xD => .ok (.drw x y (nField op))
  | 0xE =>
    match nn.toNat with
    | 0x9E => .ok (.skp x)
    | 0xA1 => .ok (.sknp x)
    | _ => invalid
  | 0xF =>
    match nn.toNat with
    | 0x07 => .ok (.getdt x)
    | 0x0A => .ok (.waitk x)
    | 0x15 => .ok (.setdt x)
    | 0x18 => .ok (.setst x)
    | 0x1E => .ok (.addix x)
    | 0x29 => .ok (.font x)
    | 0x33 => .ok (.bcd x)
    | 0x55 => .ok (.stm x)
    | 0x65 => .ok (.ldm x)
    | _ => invalid
  | _ => invalid

/-- The instruction at the head of a byte list, and the bytes after it (R70: two bytes, high byte first). -/
def decode : List Byte → Except Reject (Instr × List Byte)
  | hi :: lo :: rest =>
    match decodeWord (wordOfBytes hi lo) with
    | .ok i => .ok (i, rest)
    | .error r => .error r
  | _ => .error .truncated

/-! ### The encoder -/

/-- Format A of R73: an opcode nibble and nnn. -/
def formatA (n3 : Nibble) (nnn : BitVec 12) : Word16 := n3 ++ nnn
/-- Format XI of R73: an opcode nibble, a register and nn. -/
def formatXI (n3 : Nibble) (x : Reg) (nn : Byte) : Word16 := n3 ++ BitVec.ofFin (w := 4) x ++ nn
/-- Formats XY and XYN of R73: an opcode nibble, two registers and a last nibble. -/
def formatXY (n3 : Nibble) (x y : Reg) (n0 : Nibble) : Word16 :=
  n3 ++ BitVec.ofFin (w := 4) x ++ BitVec.ofFin (w := 4) y ++ n0

/-- The word of an instruction, from the patterns of R75. -/
def encode : Instr → Word16
  | .nop => 0x0000#16
  | .cls => 0x00E0#16
  | .ret => 0x00EE#16
  | .jp nnn => formatA 0x1#4 nnn
  | .call nnn => formatA 0x2#4 nnn
  | .sei x nn => formatXI 0x3#4 x nn
  | .snei x nn => formatXI 0x4#4 x nn
  | .ser x y => formatXY 0x5#4 x y 0x0#4
  | .ldi x nn => formatXI 0x6#4 x nn
  | .addi x nn => formatXI 0x7#4 x nn
  | .mov x y => formatXY 0x8#4 x y 0x0#4
  | .or x y => formatXY 0x8#4 x y 0x1#4
  | .and x y => formatXY 0x8#4 x y 0x2#4
  | .xor x y => formatXY 0x8#4 x y 0x3#4
  | .add x y => formatXY 0x8#4 x y 0x4#4
  | .sub x y => formatXY 0x8#4 x y 0x5#4
  | .shr x y => formatXY 0x8#4 x y 0x6#4
  | .subn x y => formatXY 0x8#4 x y 0x7#4
  | .shl x y => formatXY 0x8#4 x y 0xE#4
  | .sner x y => formatXY 0x9#4 x y 0x0#4
  | .ldix nnn => formatA 0xA#4 nnn
  | .jpv0 nnn => formatA 0xB#4 nnn
  | .rnd x nn => formatXI 0xC#4 x nn
  | .drw x y n => formatXY 0xD#4 x y (BitVec.ofNat 4 n)
  | .skp x => formatXI 0xE#4 x 0x9E#8
  | .sknp x => formatXI 0xE#4 x 0xA1#8
  | .getdt x => formatXI 0xF#4 x 0x07#8
  | .waitk x => formatXI 0xF#4 x 0x0A#8
  | .setdt x => formatXI 0xF#4 x 0x15#8
  | .setst x => formatXI 0xF#4 x 0x18#8
  | .addix x => formatXI 0xF#4 x 0x1E#8
  | .font x => formatXI 0xF#4 x 0x29#8
  | .bcd x => formatXI 0xF#4 x 0x33#8
  | .stm x => formatXI 0xF#4 x 0x55#8
  | .ldm x => formatXI 0xF#4 x 0x65#8

/-! ### The table of R75 -/

/-- The mask column of R75 for the row of an instruction: 1 in every bit that is not an operand. -/
def Instr.mask : Instr → Word16
  | .nop | .cls | .ret => 0xFFFF#16
  | .jp _ | .call _ | .ldix _ | .jpv0 _ => 0xF000#16
  | .sei _ _ | .snei _ _ | .ldi _ _ | .addi _ _ | .rnd _ _ => 0xF000#16
  | .ser _ _ | .mov _ _ | .or _ _ | .and _ _ | .xor _ _ | .add _ _ | .sub _ _ | .shr _ _ | .subn _ _ | .shl _ _
  | .sner _ _ => 0xF00F#16
  | .drw _ _ _ => 0xF000#16
  | .skp _ | .sknp _ | .getdt _ | .waitk _ | .setdt _ | .setst _ | .addix _ | .font _ | .bcd _ | .stm _
  | .ldm _ => 0xF0FF#16

/-- A row of R75: the mnemonic, the mask and the match value. -/
structure TableRow where
  mnemonic : String
  mask : Word16
  value : Word16
  deriving DecidableEq, Repr

/-- R75: "a word `op` is the instruction of a row exactly when `op & mask == match`". -/
def TableRow.matchesWord (row : TableRow) (op : Word16) : Bool := op &&& row.mask == row.value

/-- The 35 rows of R75, in its order. -/
def opcodeTable : List TableRow :=
  [⟨"NOP", 0xFFFF#16, 0x0000#16⟩, ⟨"CLS", 0xFFFF#16, 0x00E0#16⟩, ⟨"RET", 0xFFFF#16, 0x00EE#16⟩,
   ⟨"JP", 0xF000#16, 0x1000#16⟩, ⟨"CALL", 0xF000#16, 0x2000#16⟩] ++
  [⟨"SEI", 0xF000#16, 0x3000#16⟩, ⟨"SNEI", 0xF000#16, 0x4000#16⟩, ⟨"SER", 0xF00F#16, 0x5000#16⟩,
   ⟨"LDI", 0xF000#16, 0x6000#16⟩, ⟨"ADDI", 0xF000#16, 0x7000#16⟩] ++
  [⟨"MOV", 0xF00F#16, 0x8000#16⟩, ⟨"OR", 0xF00F#16, 0x8001#16⟩, ⟨"AND", 0xF00F#16, 0x8002#16⟩,
   ⟨"XOR", 0xF00F#16, 0x8003#16⟩, ⟨"ADD", 0xF00F#16, 0x8004#16⟩] ++
  [⟨"SUB", 0xF00F#16, 0x8005#16⟩, ⟨"SHR", 0xF00F#16, 0x8006#16⟩, ⟨"SUBN", 0xF00F#16, 0x8007#16⟩,
   ⟨"SHL", 0xF00F#16, 0x800E#16⟩, ⟨"SNER", 0xF00F#16, 0x9000#16⟩] ++
  [⟨"LDIX", 0xF000#16, 0xA000#16⟩, ⟨"JPV0", 0xF000#16, 0xB000#16⟩, ⟨"RND", 0xF000#16, 0xC000#16⟩,
   ⟨"DRW", 0xF000#16, 0xD000#16⟩, ⟨"SKP", 0xF0FF#16, 0xE09E#16⟩] ++
  [⟨"SKNP", 0xF0FF#16, 0xE0A1#16⟩, ⟨"GETDT", 0xF0FF#16, 0xF007#16⟩, ⟨"WAITK", 0xF0FF#16, 0xF00A#16⟩,
   ⟨"SETDT", 0xF0FF#16, 0xF015#16⟩, ⟨"SETST", 0xF0FF#16, 0xF018#16⟩] ++
  [⟨"ADDIX", 0xF0FF#16, 0xF01E#16⟩, ⟨"FONT", 0xF0FF#16, 0xF029#16⟩, ⟨"BCD", 0xF0FF#16, 0xF033#16⟩,
   ⟨"STM", 0xF0FF#16, 0xF055#16⟩, ⟨"LDM", 0xF0FF#16, 0xF065#16⟩]

/-! ### The lines of an image (R81, R82) -/

/-- A line of an image: an instruction, or one of the two directives, which have no encoding of their own. There are
no pseudo-instructions (R82). -/
inductive ImageLine where
  | instr (i : Instr)
  /-- `DB b0, b1, ...`: the given bytes. -/
  | db (bytes : List Byte)
  /-- `DW w`: a 16-bit value, any word, an instruction's or not. -/
  | dw (w : Word16)
  deriving DecidableEq, Repr

/-- The bytes a line places at consecutive addresses, a word high byte first (R70, R82). SHR and SHL place the y
they are given, which their execution ignores (R74, R82). -/
def ImageLine.bytes : ImageLine → List Byte
  | .instr i => wordBytes (encode i)
  | .db bytes => bytes
  | .dw w => wordBytes w

/-- The bytes of an image, the argument of the host's load (47_host_operations.md R172). -/
def assemble (lines : List ImageLine) : List Byte := lines.flatMap ImageLine.bytes

/-! ### The host's entry -/

/-- The word of the `nbits` low bits of `w`, numbered as spec/opcode_table.json numbers them. -/
def tableWord (nbits w : Nat) : Word16 := BitVec.ofNat 16 (w % 2 ^ nbits)

/-- What the decoder reads from the two bytes of an opcode-table word, high byte first. -/
def decodeTableWord (nbits w : Nat) : Option Instr :=
  match decode (wordBytes (tableWord nbits w)) with
  | .ok (i, _) => some i
  | .error _ => none

end Sys2Proof
end

