-- ==== Sys2Proof/Config.lean ====
section
/-! DEFINITION. What is fixed for the machine: the sizes of spec/00_scope.md R6, and the free values the spec
leaves open (the random byte, the host's two cadences). The parameter FONT is an argument of the model, in
Sys2Proof/Machine/Font.lean. -/

namespace Sys2Proof.Config

/-- MEM_SIZE: bytes of memory, addresses 0x000 to 0xFFF (R6). -/
abbrev memSize : Nat := 4096

/-- START_ADDR: where a program image is loaded and where pc starts (R6). -/
abbrev startAddr : Nat := 0x200

/-- MAX_IMAGE: the largest program image in bytes (R6). -/
abbrev maxImage : Nat := 3584

/-- STACK_DEPTH: call-stack slots (R6). -/
abbrev stackDepth : Nat := 16

/-- DISPLAY_WIDTH: pixels per row (R6). -/
abbrev displayWidth : Nat := 64

/-- DISPLAY_HEIGHT: rows (R6). -/
abbrev displayHeight : Nat := 32

/-- NUM_KEYS: key cells (R6). -/
abbrev numKeys : Nat := 16

/-- GLYPH_SIZE: bytes per font glyph (R6). -/
abbrev glyphSize : Nat := 5

/-- FONT_SIZE: bytes of font data (R6, R7). -/
abbrev fontSize : Nat := 80

/-- `Draw()` (47_host_operations.md R183): the random byte of the k-th execution of RND. A FREE VALUE: it has no
body, so nothing can be proved of it beyond its being a byte (notes/assumptions/2.md). -/
opaque draw : Nat → Byte

/-- TIMER_HZ (00_scope.md R8): the cadence of tick_timer; open, and used by no rule (notes/assumptions/10.md). -/
opaque timerHz : Nat

/-- TICKS_PER_FRAME (00_scope.md R8): ticks per video frame; open, and used by no rule (notes/assumptions/10.md). -/
opaque ticksPerFrame : Nat

end Sys2Proof.Config
end

