-- ==== Sys2Proof/Machine/Font.lean ====
section
/-! DEFINITION. The parameter FONT (spec/00_scope.md R7), an argument of everything that reads it, and the default
value the spec gives for it (10_state.md R31). -/

namespace Sys2Proof.Machine

/-- What memory holds at an address after reset, and so what an unlisted address reads as, for a value of FONT:
FONT[a] below 0x050 and 0x00 elsewhere (70_reset_and_hazards.md R221). -/
def initialByte (font : Font) (a : Nat) : Byte := if h : a < Config.fontSize then font[a] else 0x00#8

/-- The conventional table of 10_state.md R31, 16 glyphs of 5 bytes: the default "to be used unless evidence from
the repository gives another". PRESUMED: the spec marks it as general knowledge. No statement rests on it
(notes/assumptions/3.md). -/
def conventionalFont : Font :=
  ⟨([0xF0#8, 0x90#8, 0x90#8, 0x90#8, 0xF0#8] ++ [0x20#8, 0x60#8, 0x20#8, 0x20#8, 0x70#8] ++
    [0xF0#8, 0x10#8, 0xF0#8, 0x80#8, 0xF0#8] ++ [0xF0#8, 0x10#8, 0xF0#8, 0x10#8, 0xF0#8] ++
    [0x90#8, 0x90#8, 0xF0#8, 0x10#8, 0x10#8] ++ [0xF0#8, 0x80#8, 0xF0#8, 0x10#8, 0xF0#8] ++
    [0xF0#8, 0x80#8, 0xF0#8, 0x90#8, 0xF0#8] ++ [0xF0#8, 0x10#8, 0x20#8, 0x40#8, 0x40#8] ++
    [0xF0#8, 0x90#8, 0xF0#8, 0x90#8, 0xF0#8] ++ [0xF0#8, 0x90#8, 0xF0#8, 0x10#8, 0xF0#8] ++
    [0xF0#8, 0x90#8, 0xF0#8, 0x90#8, 0x90#8] ++ [0xE0#8, 0x90#8, 0xE0#8, 0x90#8, 0xE0#8] ++
    [0xF0#8, 0x80#8, 0x80#8, 0x80#8, 0xF0#8] ++ [0xE0#8, 0x90#8, 0x90#8, 0x90#8, 0xE0#8] ++
    [0xF0#8, 0x80#8, 0xF0#8, 0x80#8, 0xF0#8] ++ [0xF0#8, 0x80#8, 0xF0#8, 0x80#8, 0x80#8]).toArray, rfl⟩

end Sys2Proof.Machine
end

