-- ==== Sys2Proof/Machine/State.lean ====
section
/-! DEFINITION. The state of the core (spec/10_state.md R20), as plain data, and the state after reset (R38). -/

namespace Sys2Proof.Machine

/-- Memory as the list of the cells that differ from the reset contents, addresses rising (notes/assumptions/4.md;
its reading is `Memory.read` of Ops.lean). -/
abbrev Memory := List Host.Cell

/-- The causes of a fault (60_exceptions.md R192). Each is recorded in the latch by a tick that answers a next
state; none stops the model (notes/assumptions/1.md). -/
inductive Cause where
  /-- Code 1, raised by decode: the word matches no row of 30_encoding.md R75. -/
  | invalidOpcode
  /-- Code 2, raised by fetch: pc above 0xFFE at the start of a tick. -/
  | fetchOutOfBounds
  /-- Code 3, raised by DRW, BCD, STM, LDM: the highest address to be accessed exceeds 0xFFF. -/
  | memoryOutOfBounds
  /-- Code 4, raised by CALL: all 16 slots in use. -/
  | stackOverflow
  /-- Code 5, raised by RET: the stack is empty. -/
  | stackUnderflow
  /-- Code 6, raised by SKP and SKNP: V[x] above 15. -/
  | keyIndexOutOfRange
  deriving DecidableEq, Repr

/-- The record of the fault latch (10_state.md R35). -/
structure FaultRecord where
  /-- Why. -/
  cause : Cause
  /-- The address the faulting instruction was fetched from. -/
  addr : Word16
  /-- The instruction word, or 0 when the fetch itself failed. -/
  op : Word16
  deriving DecidableEq, Repr

/-- The state of the core: the eleven fields of 10_state.md R20 under the names the rules use, and the
model's own two: the counter of random draws and the value of the parameter FONT. -/
structure State where
  /-- program_counter (R25). -/
  pc : Word16
  /-- memory (R30). -/
  mem : Memory
  /-- display (R32). -/
  disp : Display
  /-- registers (R21). -/
  V : Vector Byte 16
  /-- index_register (R27). -/
  I : Word16
  /-- stack_pointer, 0 to 16 (R28). -/
  sp : Fin 17
  /-- call_stack (R28). -/
  stack : Vector Word16 16
  /-- keys, true is pressed (R33). -/
  keys : Vector Bool 16
  /-- delay_timer (R34). -/
  DT : Byte
  /-- sound_timer (R34). -/
  ST : Byte
  /-- The fault latch (R35): the core is halted while it is not none. -/
  fault : Option FaultRecord
  /-- THE MODEL'S OWN: how many bytes RND has drawn, so that the next free value is `Config.draw draws`
  (47_host_operations.md R183, notes/assumptions/2.md). -/
  draws : Nat
  /-- THE MODEL'S OWN: the value of the parameter FONT this machine was built with (00_scope.md R7), which no
  operation changes; every statement about a state holds for every value of it (notes/assumptions/3.md). -/
  font : Font
  deriving DecidableEq, Repr

/-- The stops of the model that are faults: there are none. Every fault of the core is one the spec describes
(60_exceptions.md R191), so the tick that raises it answers a next state with the latch set, and a halted core's
tick answers the same state (R194). Safe: no behaviour is cut off (notes/assumptions/1.md). -/
inductive Fault where
  deriving DecidableEq, Repr

/-- Why an operation is refused. -/
inductive Refusal where
  /-- Raised by `exec` alone, in the arm of an instruction that has no meaning yet; safe. No arm raises it now. -/
  | notModelled (mnemonic : String)
  /-- Raised by the host operation `load` on an image of more than 3584 bytes (47_host_operations.md R173); the
  spec's own refusal, no state changes; safe. -/
  | loadOutOfBounds
  /-- Raised by the host operation `keypress` on an index above 15 (47_host_operations.md R182); the spec's own
  refusal, no state changes; safe. -/
  | keypressOutOfRange
  deriving DecidableEq, Repr

/-- The state after reset (10_state.md R38, 70_reset_and_hazards.md R220) for a value of FONT: memory lists nothing,
since an unlisted address reads as its reset contents. `draws` is the model's own field (notes/assumptions/2.md). -/
def State.resetWith (font : Font) : State where
  pc := 0x0200#16
  mem := []
  disp := 0#2048
  V := Vector.replicate 16 0#8
  I := 0#16
  sp := 0
  stack := Vector.replicate 16 0#16
  keys := Vector.replicate 16 false
  DT := 0#8
  ST := 0#8
  fault := none
  draws := 0
  font := font

/-- The state after reset with FONT at the default of 10_state.md R31 (notes/assumptions/3.md). -/
def State.reset : State := State.resetWith conventionalFont

end Sys2Proof.Machine
end

