-- ==== Sys2Proof/Machine/Ops.lean ====
section
/-! DEFINITION. The named operations over memory, registers and the call stack, taking a fault, and the fetch step:
every instruction meaning is built from these. The spec has no return from a fault (spec/60_exceptions.md R200). -/

namespace Sys2Proof.Machine

/-! ### Memory (20_memory.md) -/

/-- `MemRead(a, 1)` (00_scope.md R11): the byte of cell a, for a value of FONT. -/
def Memory.read (font : Font) : Memory → Nat → Byte
  | [], a => initialByte font a
  | (k, b) :: m, a => if k = a then b else Memory.read font m a

/-- Put an entry before the first one of a higher address. -/
def Memory.insert (a : Nat) (b : Byte) : Memory → Memory
  | [] => [(a, b)]
  | (k, c) :: m => if a < k then (a, b) :: (k, c) :: m else (k, c) :: Memory.insert a b m

/-- `MemWrite(a, 1, b)` (00_scope.md R11), keeping the canonical form: an entry equal to the reset contents is not
listed. -/
def Memory.write (font : Font) (m : Memory) (a : Nat) (b : Byte) : Memory :=
  let others := m.filter fun cell => cell.1 != a
  if b = initialByte font a then others else Memory.insert a b others

/-- Consecutive bytes written from address a up. -/
def Memory.writeBytes (font : Font) (m : Memory) (a : Nat) : List Byte → Memory
  | [] => m
  | b :: bs => Memory.writeBytes font (m.write font a b) (a + 1) bs

/-- `count` consecutive bytes read from address a up. -/
def Memory.readBytes (font : Font) (m : Memory) (a count : Nat) : List Byte :=
  (List.range count).map fun k => m.read font (a + k)

/-- The canonical form: addresses strictly rising, all of them addresses of memory (20_memory.md R50), and no entry
equal to what an unlisted address reads as. -/
abbrev Memory.wf (font : Font) (m : Memory) : Prop :=
  m.Pairwise (fun c d => c.1 < d.1) ∧ ∀ c ∈ m, c.1 < Config.memSize ∧ c.2 ≠ initialByte font c.1

/-- The byte of cell a in a state. -/
def State.readMem (s : State) (a : Nat) : Byte := s.mem.read s.font a

/-- Store consecutive bytes from address a up. -/
def State.storeBytes (s : State) (a : Nat) (bs : List Byte) : State := { s with mem := s.mem.writeBytes s.font a bs }

/-! ### General registers and the other scalars (10_state.md R21 to R34) -/

/-- `V[r]`. -/
def State.reg (s : State) (r : Reg) : Byte := s.V.get r

/-- The number of VF, the flag register (R21). -/
def vf : Reg := 15

/-- `V[r] <- v`. -/
def State.setReg (s : State) (r : Reg) (v : Byte) : State := { s with V := s.V.set r.val v r.isLt }

/-- `pc <- v`. -/
def State.setPc (s : State) (v : Word16) : State := { s with pc := v }

/-- `I <- v`. -/
def State.setI (s : State) (v : Word16) : State := { s with I := v }

/-- `DT <- v`. -/
def State.setDT (s : State) (v : Byte) : State := { s with DT := v }

/-- `ST <- v`. -/
def State.setST (s : State) (v : Byte) : State := { s with ST := v }

/-- Replace the whole display. -/
def State.setDisp (s : State) (d : Display) : State := { s with disp := d }

/-- `disp[k]`: 1 is lit. -/
def State.pixel (s : State) (k : Nat) : Bool := s.disp.getLsbD k

/-- `keys[k]`: true is pressed. -/
def State.key (s : State) (k : Fin 16) : Bool := s.keys.get k

/-- `stack[k]`. -/
def State.slot (s : State) (k : Fin 16) : Word16 := s.stack.get k

/-! ### Taking a fault (60_exceptions.md R191, R192) -/

/-- The code of a cause (R192). -/
def Cause.code : Cause → Nat
  | .invalidOpcode => 1
  | .fetchOutOfBounds => 2
  | .memoryOutOfBounds => 3
  | .stackOverflow => 4
  | .stackUnderflow => 5
  | .keyIndexOutOfRange => 6

/-- `raise Fault(cause, addr, op)` (R191): the latch is set, every other field stays as it was at that moment, pc
included (R195). -/
def State.raise (s : State) (cause : Cause) (addr op : Word16) : State := { s with fault := some ⟨cause, addr, op⟩ }

/-- The address the executing instruction was fetched from: pc is A + 2 during execute (40_tick_cycle.md R91). -/
def State.fetchedFrom (s : State) : Word16 := s.pc - 2#16

/-- An instruction raises a fault of its own: the record holds A and the instruction's word (R192). -/
def trap (cause : Cause) (i : Instr) (s : State) : Host.Outcome State Fault Refusal :=
  .next (s.raise cause s.fetchedFrom (encode i))

/-! ### Call stack (10_state.md R29) -/

/-- "push increments after store": none when all 16 slots are in use. -/
def State.push (s : State) (v : Word16) : Option State :=
  if h : s.sp.val < Config.stackDepth then
    some { s with stack := s.stack.set s.sp.val v h, sp := ⟨s.sp.val + 1, Nat.succ_lt_succ h⟩ }
  else none

/-- "pop decrements before load": the popped value and the state after, whose slot keeps its value; none when the
stack is empty. -/
def State.pop (s : State) : Option (Word16 × State) :=
  if h : 0 < s.sp.val then
    let top := s.sp.val - 1
    have lt16 : top < 16 := by have := s.sp.isLt; omega
    some (s.stack.get ⟨top, lt16⟩, { s with sp := ⟨top, Nat.lt_succ_of_lt lt16⟩ })
  else none

/-! ### Fetch (40_tick_cycle.md R90 to R92) -/

/-- Both bytes of the word at pc are addresses of memory: pc is at most 0xFFE (20_memory.md R56). -/
def State.fetchInRange (s : State) : Bool := decide (s.pc.toNat ≤ 0xFFE)

/-- `MemRead(pc, 2)`: the word at pc, big-endian (R91). -/
def State.fetchWord (s : State) : Word16 := wordOfBytes (s.readMem s.pc.toNat) (s.readMem (s.pc.toNat + 1))

/-- `pc <- A + 2`, before execute (R91). -/
def State.advance (s : State) : State := s.setPc (s.pc + 2#16)

/-- What the steps before execute come to. -/
inductive Fetched where
  /-- The tick ends here, in this state: halted, a fetch fault or an invalid opcode. -/
  | settled (t : State)
  /-- This instruction is to be executed in this state, whose pc is A + 2. -/
  | execute (i : Instr) (t : State)
  deriving DecidableEq, Repr

/-- Fetch and decode in the order of R90, the faults in the priority of 60_exceptions.md R196: halted, fetch fault
(pc unchanged), invalid opcode (pc advanced). -/
def State.fetchDecode (s : State) : Fetched :=
  match s.fault with
  | some _ => .settled s
  | none =>
    if s.fetchInRange then
      match decode [s.readMem s.pc.toNat, s.readMem (s.pc.toNat + 1)] with
      | .ok (i, _) => .execute i s.advance
      | .error _ => .settled (s.advance.raise .invalidOpcode s.pc s.fetchWord)
    else .settled (s.raise .fetchOutOfBounds s.pc 0#16)

/-- Store an opcode-table word where fetch reads its next instruction, high byte first (notes/assumptions/8.md):
the latch is cleared, and pc is set to the start address if no word can be fetched at it, so that the very next tick
fetches the word. -/
def State.placeWord (s : State) (op : Word16) : State :=
  let pc := if s.fetchInRange then s.pc else BitVec.ofNat 16 Config.startAddr
  ({ s with pc := pc, fault := none }).storeBytes pc.toNat (wordBytes op)

end Sys2Proof.Machine
end

