-- ==== Sys2Proof/Machine/Operands.lean ====
section
/-! DEFINITION. The operand forms (spec/30_encoding.md R74, 44_index_memory.md R146): a register named by a field,
an immediate in the word, and memory at I plus a counter. -/

namespace Sys2Proof.Machine

/-- `zext_16(nnn)` (30_encoding.md R74). -/
def addrOperand (nnn : BitVec 12) : Word16 := nnn.setWidth 16

/-- `zext_16(v)` of a register (44_index_memory.md R141). -/
def zext16 (v : Byte) : Word16 := v.setWidth 16

/-- The effective address of byte k of an access, the natural number I + k, not reduced (44_index_memory.md R146,
20_memory.md R57). -/
def State.dataAddr (s : State) (k : Nat) : Nat := s.I.toNat + k

/-- Whether an access of `count` bytes at I stays in memory: the highest address, I + count - 1, is at most 0xFFF;
an access of no bytes always does (20_memory.md R57). -/
def State.dataInRange (s : State) (count : Nat) : Bool := decide (count = 0 ∨ s.I.toNat + count - 1 ≤ 0xFFF)

/-- The `count` bytes at I, lowest address first. -/
def State.dataBytes (s : State) (count : Nat) : List Byte := s.mem.readBytes s.font (s.dataAddr 0) count

/-- V[0] to V[x], lowest register first (20_memory.md R53). -/
def State.regsUpTo (s : State) (x : Reg) : List Byte := s.V.toList.take (x.val + 1)

/-- V[k] <- the byte at I + k, for k from 0 to x; the registers above x stay (44_index_memory.md R145). -/
def State.loadRegsUpTo (s : State) (x : Reg) : State :=
  { s with V := Vector.ofFn fun k => if k ≤ x then s.readMem (s.dataAddr k.val) else s.reg k }

/-- The key a skip tests: the cell whose index is the whole value of V[x]; none above 15 (42_skips.md R115). -/
def State.keyOperand (s : State) (x : Reg) : Option Bool :=
  if h : (s.reg x).toNat < Config.numKeys then some (s.key ⟨(s.reg x).toNat, h⟩) else none

/-- The lowest index of a pressed key (46_timers_keys.md R161). -/
def State.firstPressed (s : State) : Option Reg := (List.finRange 16).find? fun k => s.key k

end Sys2Proof.Machine
end

