-- ==== Sys2Proof/Machine/Flags.lean ====
section
/-! DEFINITION. The arithmetic results and every flag computation (spec/10_state.md R23, 43_register_alu.md R133):
exact natural numbers first, narrowed at the end. A flag is the byte 0x00 or 0x01 (R120 e). -/

namespace Sys2Proof.Machine

/-- A flag as the byte written to VF. -/
def flagByte (b : Bool) : Byte := if b then 0x01#8 else 0x00#8

/-- `(a + b) mod 256` (R127). -/
def sum8 (a b : Byte) : Byte := BitVec.ofNat 8 (a.toNat + b.toNat)

/-- `(a + 256 - b) mod 256` (R128, R130). -/
def diff8 (a b : Byte) : Byte := BitVec.ofNat 8 (a.toNat + 256 - b.toNat)

/-- The carry out of bit 7: the unreduced sum exceeds 255 (R127). -/
def carry (a b : Byte) : Bool := decide (a.toNat + b.toNat > 255)

/-- No borrow in a - b: not a < b (R128, R130). -/
def noBorrow (a b : Byte) : Bool := decide (¬ a.toNat < b.toNat)

/-- `a >> 1`, bit 7 becoming 0 (R129). -/
def shr1 (a : Byte) : Byte := a >>> 1

/-- `(a << 1) mod 256` (R131). -/
def shl1 (a : Byte) : Byte := a <<< 1

/-- Bit 0, shifted out by a right shift (R129). -/
def lowBit (a : Byte) : Bool := a.getLsbD 0

/-- Bit 7, shifted out by a left shift (R131). -/
def highBit (a : Byte) : Bool := a.getLsbD 7

/-- V[x] <- v, and second V[0xF] <- the flag, so that with x = 0xF the flag stays (10_state.md R24,
notes/assumptions/7.md). -/
def State.setResultAndFlag (s : State) (x : Reg) (v : Byte) (flag : Bool) : State :=
  (s.setReg x v).setReg vf (flagByte flag)

end Sys2Proof.Machine
end

