-- ==== Sys2Proof/Machine/ControlTransfer.lean ====
section
/-! DEFINITION. Control transfer (spec/41_control_transfer.md R100 to R104). Each meaning starts from the state
after fetch, whose pc is A + 2 (40_tick_cycle.md R91). -/

namespace Sys2Proof.Machine

/-- R100: nothing. -/
def execNop (s : State) : Host.Outcome State Fault Refusal := .next s

/-- R101: pop into pc; StackUnderflow on an empty stack. -/
def execRet (s : State) : Host.Outcome State Fault Refusal :=
  match s.pop with
  | some (target, t) => .next (t.setPc target)
  | none => trap .stackUnderflow .ret s

/-- R102: pc <- zext_16(nnn). -/
def execJp (nnn : BitVec 12) (s : State) : Host.Outcome State Fault Refusal := .next (s.setPc (addrOperand nnn))

/-- R103: push pc, which is A + 2, and jump; StackOverflow when all 16 slots are in use. -/
def execCall (nnn : BitVec 12) (s : State) : Host.Outcome State Fault Refusal :=
  match s.push s.pc with
  | some t => .next (t.setPc (addrOperand nnn))
  | none => trap .stackOverflow (.call nnn) s

/-- R104: pc <- zext_16(V[0]) + zext_16(nnn), never reduced to 12 bits. -/
def execJpv0 (nnn : BitVec 12) (s : State) : Host.Outcome State Fault Refusal :=
  .next (s.setPc (zext16 (s.reg 0) + addrOperand nnn))

end Sys2Proof.Machine
end

