-- ==== Sys2Proof/Machine/DisplayOps.lean ====
section
/-! DEFINITION. The display (spec/45_display.md R150 to R152). -/

namespace Sys2Proof.Machine

/-- R150: every cell to 0; VF unchanged. -/
def execCls (s : State) : Host.Outcome State Fault Refusal := .next (s.setDisp 0#2048)

/-- A display being drawn on, with the collision seen so far. -/
structure Canvas where
  disp : Display
  collision : Bool
  deriving DecidableEq, Repr

/-- The cell of column `col` and row `row` of a sprite at the origin (vx, vy): both coordinates are reduced on
their own, and the index is px + 64 * py (R151). -/
def spriteCell (vx vy : Byte) (row col : Nat) : Nat :=
  (vx.toNat + col) % Config.displayWidth + Config.displayWidth * ((vy.toNat + row) % Config.displayHeight)

/-- XOR-toggle one cell; a cell that was lit is a collision (R151). -/
def Canvas.toggle (c : Canvas) (cell : Nat) : Canvas where
  disp := c.disp ^^^ BitVec.twoPow 2048 cell
  collision := c.collision || c.disp.getLsbD cell

/-- Draw the columns from `col` up, `left` of them, of one sprite row: bit 7 - col of its byte is column col. -/
def Canvas.drawColumns (c : Canvas) (vx vy : Byte) (row : Nat) (b : Byte) (col : Nat) : Nat → Canvas
  | 0 => c
  | left + 1 =>
    let c' := if b.getLsbD (7 - col) then c.toggle (spriteCell vx vy row col) else c
    c'.drawColumns vx vy row b (col + 1) left

/-- Draw the rows of a sprite from `row` down, one byte a row, 8 columns each. -/
def Canvas.drawRows (c : Canvas) (vx vy : Byte) (row : Nat) : List Byte → Canvas
  | [] => c
  | b :: bs => (c.drawColumns vx vy row b 0 8).drawRows vx vy (row + 1) bs

/-- R151: XOR the n-row sprite at I on the display at (V[x], V[y]), then VF <- the collision of the whole sprite;
MemoryOutOfBounds when n > 0 and I + n - 1 is above 0xFFF. -/
def execDrw (x y : Reg) (n : Nat) (s : State) : Host.Outcome State Fault Refusal :=
  if s.dataInRange n then
    let c := (Canvas.mk s.disp false).drawRows (s.reg x) (s.reg y) 0 (s.dataBytes n)
    .next ((s.setDisp c.disp).setReg vf (flagByte c.collision))
  else trap .memoryOutOfBounds (.drw x y n) s

end Sys2Proof.Machine
end

