-- ==== Sys2Proof/Machine/IndexMemory.lean ====
section
/-! DEFINITION. The index register, loads and stores (spec/44_index_memory.md R140 to R146). -/

namespace Sys2Proof.Machine

/-- R140: I <- zext_16(nnn). -/
def execLdix (nnn : BitVec 12) (s : State) : Host.Outcome State Fault Refusal := .next (s.setI (addrOperand nnn))

/-- R141: I <- (I + zext_16(V[x])) mod 65536, no flag. -/
def execAddix (x : Reg) (s : State) : Host.Outcome State Fault Refusal := .next (s.setI (s.I + zext16 (s.reg x)))

/-- R142: I <- V[x] * 5, on the whole byte. -/
def execFont (x : Reg) (s : State) : Host.Outcome State Fault Refusal :=
  .next (s.setI (BitVec.ofNat 16 ((s.reg x).toNat * Config.glyphSize)))

/-- The hundreds, tens and ones of a byte (R143). -/
def decimalDigits (v : Byte) : List Byte :=
  [BitVec.ofNat 8 (v.toNat / 100), BitVec.ofNat 8 (v.toNat / 10 % 10), BitVec.ofNat 8 (v.toNat % 10)]

/-- R143: the three digits at I, I + 1, I + 2; MemoryOutOfBounds when I + 2 is above 0xFFF. -/
def execBcd (x : Reg) (s : State) : Host.Outcome State Fault Refusal :=
  if s.dataInRange 3 then .next (s.storeBytes (s.dataAddr 0) (decimalDigits (s.reg x)))
  else trap .memoryOutOfBounds (.bcd x) s

/-- R144: V[0] to V[x] stored from I up, I unchanged; MemoryOutOfBounds when I + x is above 0xFFF. -/
def execStm (x : Reg) (s : State) : Host.Outcome State Fault Refusal :=
  if s.dataInRange (x.val + 1) then .next (s.storeBytes (s.dataAddr 0) (s.regsUpTo x))
  else trap .memoryOutOfBounds (.stm x) s

/-- R145: V[0] to V[x] loaded from I up, I unchanged; MemoryOutOfBounds when I + x is above 0xFFF. -/
def execLdm (x : Reg) (s : State) : Host.Outcome State Fault Refusal :=
  if s.dataInRange (x.val + 1) then .next (s.loadRegsUpTo x)
  else trap .memoryOutOfBounds (.ldm x) s

end Sys2Proof.Machine
end

