-- ==== Sys2Proof/Machine/RegisterAlu.lean ====
section
/-! DEFINITION. Register moves, arithmetic, logic and the random byte (spec/43_register_alu.md R120 to R133). -/

namespace Sys2Proof.Machine

/-- R121: V[x] <- nn. -/
def execLdi (x : Reg) (nn : Byte) (s : State) : Host.Outcome State Fault Refusal := .next (s.setReg x nn)

/-- R122: V[x] <- (V[x] + nn) mod 256, no flag. -/
def execAddi (x : Reg) (nn : Byte) (s : State) : Host.Outcome State Fault Refusal :=
  .next (s.setReg x (sum8 (s.reg x) nn))

/-- R123: V[x] <- V[y]. -/
def execMov (x y : Reg) (s : State) : Host.Outcome State Fault Refusal := .next (s.setReg x (s.reg y))

/-- R124: V[x] <- V[x] | V[y]; VF keeps its value (R120 d). -/
def execOr (x y : Reg) (s : State) : Host.Outcome State Fault Refusal := .next (s.setReg x (s.reg x ||| s.reg y))

/-- R125: V[x] <- V[x] & V[y]. -/
def execAnd (x y : Reg) (s : State) : Host.Outcome State Fault Refusal := .next (s.setReg x (s.reg x &&& s.reg y))

/-- R126: V[x] <- V[x] ^ V[y]. -/
def execXor (x y : Reg) (s : State) : Host.Outcome State Fault Refusal := .next (s.setReg x (s.reg x ^^^ s.reg y))

/-- R127: the sum mod 256, and VF the carry. -/
def execAdd (x y : Reg) (s : State) : Host.Outcome State Fault Refusal :=
  let a := s.reg x
  let b := s.reg y
  .next (s.setResultAndFlag x (sum8 a b) (carry a b))

/-- R128: V[x] - V[y] mod 256, and VF 0 on a borrow. -/
def execSub (x y : Reg) (s : State) : Host.Outcome State Fault Refusal :=
  let a := s.reg x
  let b := s.reg y
  .next (s.setResultAndFlag x (diff8 a b) (noBorrow a b))

/-- R129: V[x] >> 1, and VF the bit shifted out; whatever y is encoded, it is ignored (30_encoding.md R74, R82). -/
def execShr (x _y : Reg) (s : State) : Host.Outcome State Fault Refusal :=
  let a := s.reg x
  .next (s.setResultAndFlag x (shr1 a) (lowBit a))

/-- R130: V[y] - V[x] mod 256, and VF 0 on a borrow. -/
def execSubn (x y : Reg) (s : State) : Host.Outcome State Fault Refusal :=
  let a := s.reg x
  let b := s.reg y
  .next (s.setResultAndFlag x (diff8 b a) (noBorrow b a))

/-- R131: V[x] << 1 mod 256, and VF the bit shifted out; whatever y is encoded, it is ignored (30_encoding.md R74,
R82). -/
def execShl (x _y : Reg) (s : State) : Host.Outcome State Fault Refusal :=
  let a := s.reg x
  .next (s.setResultAndFlag x (shl1 a) (highBit a))

/-- R132 for the byte r that is drawn: V[x] <- r & nn, and the draw is used up. -/
def State.takeDraw (s : State) (x : Reg) (nn r : Byte) : State :=
  { s.setReg x (r &&& nn) with draws := s.draws + 1 }

/-- R132: exactly one draw, a free value (47_host_operations.md R183, notes/assumptions/2.md). -/
def execRnd (x : Reg) (nn : Byte) (s : State) : Host.Outcome State Fault Refusal :=
  .next (s.takeDraw x nn (Config.draw s.draws))

end Sys2Proof.Machine
end

