-- ==== Sys2Proof/Machine/Skips.lean ====
section
/-! DEFINITION. The conditional skips (spec/42_skips.md R110 to R116). -/

namespace Sys2Proof.Machine

/-- R110: a taken skip adds 2 to the already advanced pc; one not taken changes nothing. -/
def State.skipIf (s : State) (taken : Bool) : State := if taken then s.setPc (s.pc + 2#16) else s

/-- R111: skip if V[x] = nn. -/
def execSei (x : Reg) (nn : Byte) (s : State) : Host.Outcome State Fault Refusal := .next (s.skipIf (s.reg x == nn))

/-- R112: skip if V[x] differs from nn. -/
def execSnei (x : Reg) (nn : Byte) (s : State) : Host.Outcome State Fault Refusal := .next (s.skipIf (s.reg x != nn))

/-- R113: skip if V[x] = V[y]. -/
def execSer (x y : Reg) (s : State) : Host.Outcome State Fault Refusal := .next (s.skipIf (s.reg x == s.reg y))

/-- R114: skip if V[x] differs from V[y]. -/
def execSner (x y : Reg) (s : State) : Host.Outcome State Fault Refusal := .next (s.skipIf (s.reg x != s.reg y))

/-- R115: skip if keys[V[x]] is pressed; KeyIndexOutOfRange when V[x] is above 15. -/
def execSkp (x : Reg) (s : State) : Host.Outcome State Fault Refusal :=
  match s.keyOperand x with
  | some pressed => .next (s.skipIf pressed)
  | none => trap .keyIndexOutOfRange (.skp x) s

/-- R116: skip if keys[V[x]] is released; KeyIndexOutOfRange when V[x] is above 15. -/
def execSknp (x : Reg) (s : State) : Host.Outcome State Fault Refusal :=
  match s.keyOperand x with
  | some pressed => .next (s.skipIf (!pressed))
  | none => trap .keyIndexOutOfRange (.sknp x) s

end Sys2Proof.Machine
end

