-- ==== Sys2Proof/Machine/TimersKeys.lean ====
section
/-! DEFINITION. The timers and the key wait (spec/46_timers_keys.md R160 to R163). -/

namespace Sys2Proof.Machine

/-- R160: V[x] <- DT. -/
def execGetdt (x : Reg) (s : State) : Host.Outcome State Fault Refusal := .next (s.setReg x s.DT)

/-- R161: V[x] <- the lowest pressed key; with no key pressed pc goes back to A, and nothing else changes. -/
def execWaitk (x : Reg) (s : State) : Host.Outcome State Fault Refusal :=
  match s.firstPressed with
  | some k => .next (s.setReg x (BitVec.ofNat 8 k.val))
  | none => .next (s.setPc (s.pc - 2#16))

/-- R162: DT <- V[x]. -/
def execSetdt (x : Reg) (s : State) : Host.Outcome State Fault Refusal := .next (s.setDT (s.reg x))

/-- R163: ST <- V[x]; no sound event. -/
def execSetst (x : Reg) (s : State) : Host.Outcome State Fault Refusal := .next (s.setST (s.reg x))

end Sys2Proof.Machine
end

