-- ==== Sys2Proof/Machine/Step.lean ====
section
/-! DEFINITION. One step is one tick (spec/40_tick_cycle.md R90). -/

namespace Sys2Proof.Machine

/-- `tick()`: fetch and decode (`State.fetchDecode`), then execute. -/
def step (s : State) : Host.Outcome State Fault Refusal :=
  match s.fetchDecode with
  | .settled t => .next t
  | .execute i t => exec i t

/-- `s` with the opcode-table word `w` stored where `step` fetches next (`State.placeWord`). -/
def State.withFetchWord (s : State) (nbits w : Nat) : State := s.placeWord (tableWord nbits w)

end Sys2Proof.Machine
end

