-- ==== Sys2Proof/Machine/HostOps.lean ====
section
/-! DEFINITION. The operations the host invokes (spec/47_host_operations.md R170 to R184): each one atomic
transition over the one state (R171). -/

namespace Sys2Proof.Machine

/-- `load(bytes)`: the bytes copied to 0x200 and up and nothing else changed, halted or not (R172, R174); an image
of more than 3584 bytes is refused whole (R173). -/
def load (bytes : List Byte) (s : State) : Host.Outcome State Fault Refusal :=
  if bytes.length ≤ Config.maxImage then .next (s.storeBytes Config.startAddr bytes) else .refused .loadOutOfBounds

/-- `reset()`: every field of the spec at its reset value (R175), with the FONT this machine has; the random
sequence, which is no state of the core, is not restarted (R183, notes/assumptions/2.md). -/
def hostReset (s : State) : State := { State.resetWith s.font with draws := s.draws }

/-- One timer toward 0, staying at 0 (R178). -/
def countDown (v : Byte) : Byte := if v = 0#8 then 0#8 else v - 1#8

/-- `tick_timer()`: both timers toward 0; the second part is the sound event, due when ST was 1 (R178, R179). -/
def tickTimer (s : State) : State × Bool :=
  ({ s with DT := countDown s.DT, ST := countDown s.ST }, s.ST == 1#8)

/-- `keypress(index, is_pressed)`: one key cell (R181); an index above 15 is refused (R182). -/
def keypress (index : Nat) (pressed : Bool) (s : State) : Host.Outcome State Fault Refusal :=
  if h : index < 16 then .next { s with keys := s.keys.set index pressed h } else .refused .keypressOutOfRange

/-- `get_display()`: the 2048 bits of the display (R177). -/
def getDisplay (s : State) : Display := s.disp

/-- The fault output: the latch, readable at any time (R184). -/
def faultOutput (s : State) : Option FaultRecord := s.fault

/-- The operations of R170. -/
inductive HostOp where
  | load (bytes : List Byte)
  | reset
  | tick
  | tickTimer
  | keypress (index : Nat) (pressed : Bool)
  | getDisplay
  deriving DecidableEq, Repr

/-- What an operation gives back to the host (R170). -/
inductive Reply where
  /-- Nothing. -/
  | done
  /-- The sound event (R179). -/
  | sound
  /-- The display bits (R177). -/
  | display (grid : Display)
  /-- The operation was refused (60_exceptions.md R208). -/
  | refused (r : Refusal)
  deriving DecidableEq, Repr

/-- The state and reply of an outcome: a refused operation changes no state (60_exceptions.md R208). -/
def settleOutcome (s : State) : Host.Outcome State Fault Refusal → State × Reply
  | .next t => (t, .done)
  | .refused r => (s, .refused r)
  | .fault f => nomatch f

/-- One transaction (R171). -/
def transact (op : HostOp) (s : State) : State × Reply :=
  match op with
  | .load bytes => settleOutcome s (load bytes s)
  | .reset => (hostReset s, .done)
  | .tick => settleOutcome s (step s)
  | .tickTimer => ((tickTimer s).1, if (tickTimer s).2 then .sound else .done)
  | .keypress index pressed => settleOutcome s (keypress index pressed s)
  | .getDisplay => (s, .display (getDisplay s))

/-- A sequence of transactions, in the host's total order: the last state and the replies in order. -/
def runHost : List HostOp → State → State × List Reply
  | [], s => (s, [])
  | op :: ops, s =>
    let (t, reply) := transact op s
    let (u, replies) := runHost ops t
    (u, reply :: replies)

end Sys2Proof.Machine
end

