-- ==== Sys2Proof/Safety.lean ====
section
/-! DEFINITION. The terms claims are stated in: a running and a halted core, the invariant of spec/10_state.md R39,
the reachable states, the pieces a state consists of, and which of them each instruction may change. -/

namespace Sys2Proof.Machine

/-- The core runs: no fault is latched (60_exceptions.md R192). -/
abbrev State.Running (s : State) : Prop := s.fault = none

/-- The core is halted: a fault is latched (60_exceptions.md R194). -/
abbrev State.Halted (s : State) : Prop := s.fault ≠ none

/-- The invariant of 10_state.md R39 (0 <= sp <= 16 and the widths hold by the types), with the canonical form of
the memory list (notes/assumptions/4.md). -/
abbrev State.Inv (s : State) : Prop :=
  s.mem.wf s.font ∧ s.pc.toNat ≤ 0x10FE ∧ ∀ k : Fin 16, (s.slot k).toNat ≤ 0x1000

/-- The states reached from a new core by any sequence of host operations (47_host_operations.md R171), for
every FONT and wherever the sequence of random draws begins. -/
inductive Reachable : State → Prop where
  | start (font : Font) (draws : Nat) : Reachable { State.resetWith font with draws := draws }
  | after (op : HostOp) {s : State} (h : Reachable s) : Reachable (transact op s).1

/-- The pieces of the state, each memory byte, register, pixel, slot and key on its own (10_state.md R20). -/
inductive Component where
  | pc
  | mem (a : Nat)
  | pixel (k : Nat)
  | reg (r : Reg)
  | index
  | stackPointer
  | slot (k : Fin 16)
  | key (k : Fin 16)
  | delay
  | sound
  | latch
  | draws
  | font
  deriving DecidableEq, Repr

/-- Two states hold the same value in a piece. -/
def Component.same (c : Component) (s t : State) : Prop :=
  match c with
  | .pc => t.pc = s.pc
  | .mem a => t.readMem a = s.readMem a
  | .pixel k => t.pixel k = s.pixel k
  | .reg r => t.reg r = s.reg r
  | .index => t.I = s.I
  | .stackPointer => t.sp = s.sp
  | .slot k => t.slot k = s.slot k
  | .key k => t.key k = s.key k
  | .delay => t.DT = s.DT
  | .sound => t.ST = s.ST
  | .latch => t.fault = s.fault
  | .draws => t.draws = s.draws
  | .font => t.font = s.font

/-- `t` agrees with `s` in every piece outside `changed`: the frame of a change. -/
def AgreeOutside (changed : Set Component) (s t : State) : Prop := ∀ c, c ∉ changed → c.same s t

/-- The memory cells of an access of `count` bytes at I (20_memory.md R55). -/
def State.dataCells (s : State) (count : Nat) : Set Component := { c | ∃ k < count, c = .mem (s.dataAddr k) }

/-- Bit `7 - col` of row `row` of the sprite at I is set: the sprite toggles the cell of that column (45_display.md
R151). -/
def State.spriteBit (s : State) (row col : Nat) : Bool := (s.readMem (s.dataAddr row)).getLsbD (7 - col)

/-- The n-row sprite at I, drawn at (V[x], V[y]), covers display cell `k` with a set bit (45_display.md R152 a). -/
def State.spriteCovers (s : State) (x y : Reg) (n k : Nat) : Prop :=
  ∃ row < n, ∃ col < 8, s.spriteBit row col = true ∧ spriteCell (s.reg x) (s.reg y) row col = k

/-- What an instruction that raises no fault may change, executed in `s` (10_state.md R22 for the registers,
20_memory.md R55 for memory, 40_tick_cycle.md R95 for pc, which the fetch step has already advanced). -/
def effects (i : Instr) (s : State) : Set Component :=
  match i with
  | .nop => ∅
  | .cls => { c | ∃ k, c = .pixel k }
  | .ret => {.pc, .stackPointer}
  | .jp _ | .jpv0 _ => {.pc}
  | .call _ => {.pc, .stackPointer} ∪ { c | ∃ k : Fin 16, k.val = s.sp.val ∧ c = .slot k }
  | .sei _ _ | .snei _ _ | .ser _ _ | .sner _ _ | .skp _ | .sknp _ => {.pc}
  | .ldi x _ | .addi x _ | .mov x _ | .or x _ | .and x _ | .xor x _ | .getdt x => {.reg x}
  | .add x _ | .sub x _ | .shr x _ | .subn x _ | .shl x _ => {.reg x, .reg vf}
  | .rnd x _ => {.reg x, .draws}
  | .ldix _ | .addix _ | .font _ => {.index}
  | .drw x y n => { c | c = .reg vf ∨ ∃ k, s.spriteCovers x y n k ∧ c = .pixel k }
  | .waitk x => {.reg x, .pc}
  | .setdt _ => {.delay}
  | .setst _ => {.sound}
  | .bcd _ => s.dataCells 3
  | .stm x => s.dataCells (x.val + 1)
  | .ldm x => { c | ∃ k ≤ x, c = .reg k }

/-- The fault an instruction itself raises, executed in `s` (60_exceptions.md R192, R193): at most one cause per
instruction (R196). -/
def ownFault (i : Instr) (s : State) : Option Cause :=
  match i with
  | .call _ => if s.sp.val = 16 then some .stackOverflow else none
  | .ret => if s.sp.val = 0 then some .stackUnderflow else none
  | .skp x | .sknp x => if (s.reg x).toNat > 15 then some .keyIndexOutOfRange else none
  | .drw _ _ n => if 0 < n ∧ s.I.toNat + n - 1 > 0xFFF then some .memoryOutOfBounds else none
  | .bcd _ => if s.I.toNat + 2 > 0xFFF then some .memoryOutOfBounds else none
  | .stm x | .ldm x => if s.I.toNat + x.val > 0xFFF then some .memoryOutOfBounds else none
  | .nop | .cls | .jp _ | .sei _ _ | .snei _ _ | .ser _ _ | .sner _ _ | .ldi _ _ | .addi _ _ | .mov _ _ | .or _ _
  | .and _ _ | .xor _ _ | .add _ _ | .sub _ _ | .shr _ _ | .subn _ _ | .shl _ _ | .ldix _ | .jpv0 _ | .rnd _ _
  | .getdt _ | .waitk _ | .setdt _ | .setst _ | .addix _ | .font _ => none

end Sys2Proof.Machine
end

