-- ==== Sys2Proof/Certificates/Slice0/Obligations.lean ====
section
/-! DEFINITION. The statements for the provers, one definition each. Every rule cited is of spec/. -/

open Sys2Proof Sys2Proof.Machine

/-! ### Encoding -/

/-- 30_encoding.md sections 1 and 2: decoding the two bytes of any well-formed instruction's word gives that
instruction with every operand, whatever bytes follow. -/
def Obligations.DecodeOfEncodeIsTheInstruction : Prop :=
  ∀ (i : Instr) (rest : List Byte), i.wellFormed = true → decode (wordBytes (encode i) ++ rest) = .ok (i, rest)

/-- 30_encoding.md sections 1 and 2: a word that decodes is the word of the instruction it decodes to, and that
instruction is well formed, so each valid word has one meaning. -/
def Obligations.EncodeOfDecodeIsTheWord : Prop :=
  ∀ (op : Word16) (i : Instr), decodeWord op = .ok i → encode i = op ∧ i.wellFormed = true

/-- 30_encoding.md section 2: for each of the 35 rows of the table, a word is masked to the row's match value
exactly when it decodes to an instruction of the row's mnemonic. -/
def Obligations.WordsOfARowAreItsInstruction : Prop :=
  opcodeTable.length = 35 ∧
  ∀ row ∈ opcodeTable, ∀ op : Word16,
    op &&& row.mask = row.value ↔ ∃ i, decodeWord op = .ok i ∧ i.mnemonic = row.mnemonic

/-- 30_encoding.md section 3: the words rejected are exactly those of its table by top nibble, and the decoder names
the word. -/
def Obligations.RejectedWordsAreTheInvalidOnes : Prop :=
  ∀ op : Word16,
    decodeWord op = .error (.invalidOpcode op) ↔
      ((op.toNat / 4096 = 0x0 ∧ op.toNat ≠ 0x0000 ∧ op.toNat ≠ 0x00E0 ∧ op.toNat ≠ 0x00EE) ∨
       (op.toNat / 4096 = 0x5 ∧ op.toNat % 16 ≠ 0) ∨
       (op.toNat / 4096 = 0x8 ∧ op.toNat % 16 ∈ [0x8, 0x9, 0xA, 0xB, 0xC, 0xD, 0xF]) ∨
       (op.toNat / 4096 = 0x9 ∧ op.toNat % 16 ≠ 0) ∨
       (op.toNat / 4096 = 0xE ∧ op.toNat % 256 ∉ [0x9E, 0xA1]) ∨
       (op.toNat / 4096 = 0xF ∧ op.toNat % 256 ∉ [0x07, 0x0A, 0x15, 0x18, 0x1E, 0x29, 0x33, 0x55, 0x65]))

/-- Words of every family written out from R75 decode to the instruction they stand for. -/
def Obligations.SampleWordsDecode : Prop :=
  decodeWord 0x00EE#16 = .ok .ret ∧
  decodeWord 0x3A7F#16 = .ok (.sei 0xA 0x7F#8) ∧
  decodeWord 0x8127#16 = .ok (.subn 1 2) ∧
  decodeWord 0xA123#16 = .ok (.ldix 0x123#12) ∧
  decodeWord 0xD125#16 = .ok (.drw 1 2 5) ∧
  decodeWord 0xF70A#16 = .ok (.waitk 7) ∧
  decodeWord 0x512F#16 = .error (.invalidOpcode 0x512F#16)

/-! ### The tick -/

/-- R91: with A the value of pc, the word is mem[A] * 256 + mem[A+1]; when it decodes to an instruction, the tick is
the execute step of that instruction in the state whose pc is A + 2. -/
def Obligations.StepExecutesTheDecodedInstruction : Prop :=
  ∀ (s : State) (op : Word16) (i : Instr), s.Running → s.pc.toNat ≤ 0xFFE →
    op.toNat = (s.readMem s.pc.toNat).toNat * 256 + (s.readMem (s.pc.toNat + 1)).toNat →
    decodeWord op = .ok i →
    step s = exec i (s.setPc (s.pc + 2#16))

/-- 20_memory.md section 3 (the spec's decisions D3 and D9): a tick with pc above 0xFFE latches FetchOutOfBounds with
pc and the word 0, and changes nothing else. -/
def Obligations.FetchOutsideMemoryLatchesItsFault : Prop :=
  ∀ s : State, s.Running → s.pc.toNat > 0xFFE →
    ∃ t, step s = .next t ∧ t.fault = some ⟨.fetchOutOfBounds, s.pc, 0#16⟩ ∧ AgreeOutside {.latch} s t

/-- 40_tick_cycle.md section 1 (the latch is the spec's decision D9, pc at A + 2 its decision D10): a tick whose word
is no instruction latches InvalidOpcode with A and the word, leaves pc at A + 2, and changes nothing else. -/
def Obligations.InvalidWordLatchesItsFault : Prop :=
  ∀ (s : State) (op : Word16), s.Running → s.pc.toNat ≤ 0xFFE →
    op.toNat = (s.readMem s.pc.toNat).toNat * 256 + (s.readMem (s.pc.toNat + 1)).toNat →
    decodeWord op = .error (.invalidOpcode op) →
    ∃ t, step s = .next t ∧ t.fault = some ⟨.invalidOpcode, s.pc, op⟩ ∧ t.pc = s.pc + 2#16 ∧
      AgreeOutside {.pc, .latch} s t

/-- 40_tick_cycle.md section 1: a tick always completes, in every state; the model never stops (log 1). -/
def Obligations.EveryTickAnswersANextState : Prop :=
  ∀ s : State, ∃ t, step s = .next t

/-- 40_tick_cycle.md section 2: the value of pc after a tick that fetched from A = pc, for every instruction, for an
instruction that faults, and for a fetch fault (the fault rows rest on the spec's decisions D3, D9 and D10). -/
def Obligations.PcAfterATick : Prop :=
  ∀ (s t : State), s.Running → step s = .next t →
    (s.pc.toNat > 0xFFE → t.pc = s.pc ∧ t.Halted) ∧
    (s.pc.toNat ≤ 0xFFE → t.Halted → t.pc = s.pc + 2#16) ∧
    (s.pc.toNat ≤ 0xFFE → decodeWord s.fetchWord = .error (.invalidOpcode s.fetchWord) → t.Halted) ∧
    (s.pc.toNat ≤ 0xFFE → t.Running → ∀ i, decodeWord s.fetchWord = .ok i →
      (i.mnemonic ∈ ["NOP", "CLS", "LDI", "ADDI", "MOV", "OR", "AND", "XOR", "ADD", "SUB", "SHR", "SUBN", "SHL",
          "LDIX", "RND", "DRW", "GETDT", "SETDT", "SETST", "ADDIX", "FONT", "BCD", "STM", "LDM"] →
        t.pc = s.pc + 2#16) ∧
      (∀ x nn, i = .sei x nn → t.pc = if s.reg x = nn then s.pc + 4#16 else s.pc + 2#16) ∧
      (∀ x nn, i = .snei x nn → t.pc = if s.reg x ≠ nn then s.pc + 4#16 else s.pc + 2#16) ∧
      (∀ x y, i = .ser x y → t.pc = if s.reg x = s.reg y then s.pc + 4#16 else s.pc + 2#16) ∧
      (∀ x y, i = .sner x y → t.pc = if s.reg x ≠ s.reg y then s.pc + 4#16 else s.pc + 2#16) ∧
      (∀ x (k : Fin 16), i = .skp x → (s.reg x).toNat = k.val →
        t.pc = if s.key k = true then s.pc + 4#16 else s.pc + 2#16) ∧
      (∀ x (k : Fin 16), i = .sknp x → (s.reg x).toNat = k.val →
        t.pc = if s.key k = false then s.pc + 4#16 else s.pc + 2#16) ∧
      (∀ nnn, i = .jp nnn → t.pc.toNat = nnn.toNat) ∧
      (∀ nnn, i = .call nnn → t.pc.toNat = nnn.toNat ∧
        ∀ k : Fin 16, k.val = s.sp.val → t.slot k = s.pc + 2#16 ∧ t.sp.val = s.sp.val + 1) ∧
      (∀ k : Fin 16, i = .ret → s.sp.val = k.val + 1 → t.pc = s.slot k) ∧
      (∀ nnn, i = .jpv0 nnn → t.pc.toNat = (s.reg 0).toNat + nnn.toNat) ∧
      (∀ x, i = .waitk x → t.pc = if ∃ k, s.key k = true then s.pc + 2#16 else s.pc))

/-- 60_exceptions.md section 1 (the spec's decisions D9 and D10): the state at a fault. A tick that halts a running
core changes only the latch and, but for a fetch fault, pc, which is then A + 2; the latch holds A and the word. -/
def Obligations.FaultingTickChangesOnlyLatchAndPc : Prop :=
  ∀ s t : State, s.Running → step s = .next t → t.Halted →
    AgreeOutside {.pc, .latch} s t ∧
    ∃ cause, (s.pc.toNat > 0xFFE → t.pc = s.pc ∧ t.fault = some ⟨.fetchOutOfBounds, s.pc, 0#16⟩) ∧
      (s.pc.toNat ≤ 0xFFE → t.pc = s.pc + 2#16 ∧ t.fault = some ⟨cause, s.pc, s.fetchWord⟩)

/-- 60_exceptions.md section 1, the table of causes in the priority of R196 (the spec's decisions D1 to D5, D9, D22):
when a running core's tick latches a cause, and which. -/
def Obligations.CauseLatchedByATick : Prop :=
  ∀ s t : State, s.Running → step s = .next t →
    t.fault.map (·.cause) =
      if s.pc.toNat > 0xFFE then some .fetchOutOfBounds
      else match decodeWord s.fetchWord with
        | .error _ => some .invalidOpcode
        | .ok i => ownFault i (s.setPc (s.pc + 2#16))

/-- 60_exceptions.md section 1 (the spec's decisions D1 to D5 and D9): an instruction whose fault condition holds has
no effect but the latch, which records the cause, A = pc - 2 and the instruction's word. -/
def Obligations.OwnFaultOnlySetsTheLatch : Prop :=
  ∀ (i : Instr) (s : State) (cause : Cause), ownFault i s = some cause →
    ∃ t, exec i s = .next t ∧ t.fault = some ⟨cause, s.pc - 2#16, encode i⟩ ∧ AgreeOutside {.latch} s t

/-- 10_state.md section 2, 20_memory.md section 2, 40_tick_cycle.md section 2: every instruction, wherever its own
fault condition does not hold, completes, latches nothing and changes nothing outside the pieces the spec's tables
give it (`effects`). Choices in this frame: I kept by STM and LDM is the spec's decision D7 (log 12), the slot kept by
RET its decision D19 (log 17), the fault conditions its decisions D1 to D5 (log 11), the draw counter that RND moves the
model's own (log 2), and so is the FONT that nothing moves (log 3). -/
def Obligations.EveryInstructionCompletesInItsFrame : Prop :=
  ∀ (i : Instr) (s : State), i.wellFormed = true → ownFault i s = none →
    ∃ t, exec i s = .next t ∧ AgreeOutside (effects i s) s t

/-! ### Control transfer -/

/-- R100: NOP changes no state. -/
def Obligations.NopChangesNothing : Prop :=
  ∀ s : State, exec .nop s = .next s

/-- R102: JP sets pc to nnn, zero-extended, and changes nothing else. -/
def Obligations.JpSetsPc : Prop :=
  ∀ (s : State) (nnn : BitVec 12),
    ∃ t, exec (.jp nnn) s = .next t ∧ t.pc.toNat = nnn.toNat ∧ AgreeOutside {.pc} s t

/-- R104: JPV0 sets pc to V[0] + nnn, not reduced, and changes nothing else. -/
def Obligations.Jpv0AddsV0 : Prop :=
  ∀ (s : State) (nnn : BitVec 12),
    ∃ t, exec (.jpv0 nnn) s = .next t ∧ t.pc.toNat = (s.reg 0).toNat + nnn.toNat ∧ AgreeOutside {.pc} s t

/-- 41_control_transfer.md (CALL) with a free slot: pc, which is A + 2, goes to slot sp, sp rises by one, pc becomes
nnn, nothing else changes; with 16 slots in use it is the StackOverflow of the spec's decision D1. -/
def Obligations.CallPushesAndJumps : Prop :=
  ∀ (s : State) (nnn : BitVec 12),
    (∀ k : Fin 16, s.sp.val = k.val →
      ∃ t, exec (.call nnn) s = .next t ∧ t.slot k = s.pc ∧ t.sp.val = k.val + 1 ∧ t.pc.toNat = nnn.toNat ∧
        AgreeOutside {.pc, .stackPointer, .slot k} s t) ∧
    (s.sp.val = 16 →
      ∃ t, exec (.call nnn) s = .next t ∧ t.fault = some ⟨.stackOverflow, s.pc - 2#16, encode (.call nnn)⟩ ∧
        AgreeOutside {.latch} s t)

/-- 41_control_transfer.md (RET) with a return address held: sp falls by one and pc becomes the slot it then names,
which keeps its value (the spec's decision D19); on an empty stack it is the StackUnderflow of decision D2. -/
def Obligations.RetPopsIntoPc : Prop :=
  ∀ s : State,
    (∀ k : Fin 16, s.sp.val = k.val + 1 →
      ∃ t, exec .ret s = .next t ∧ t.pc = s.slot k ∧ t.sp.val = k.val ∧ AgreeOutside {.pc, .stackPointer} s t) ∧
    (s.sp.val = 0 →
      ∃ t, exec .ret s = .next t ∧ t.fault = some ⟨.stackUnderflow, s.pc - 2#16, 0x00EE#16⟩ ∧
        AgreeOutside {.latch} s t)

/-- 10_state.md section 6: a CALL with a free slot and the RET after it give back the pc the CALL had (A + 2) and its
sp, and change nothing else but the slot that was used. -/
def Obligations.CallThenRetReturns : Prop :=
  ∀ (s : State) (nnn : BitVec 12) (k : Fin 16), s.sp.val = k.val →
    ∃ t u, exec (.call nnn) s = .next t ∧ exec .ret t = .next u ∧ AgreeOutside {.slot k} s u

/-! ### Skips -/

/-- R111, R112, R113, R114: each of SEI, SNEI, SER and SNER adds 2 to pc exactly when its comparison holds, and
changes nothing else. -/
def Obligations.RegisterSkipsTestEquality : Prop :=
  ∀ (s : State) (x y : Reg) (nn : Byte),
    (∃ t, exec (.sei x nn) s = .next t ∧ t.pc = (if s.reg x = nn then s.pc + 2#16 else s.pc) ∧
      AgreeOutside {.pc} s t) ∧
    (∃ t, exec (.snei x nn) s = .next t ∧ t.pc = (if s.reg x ≠ nn then s.pc + 2#16 else s.pc) ∧
      AgreeOutside {.pc} s t) ∧
    (∃ t, exec (.ser x y) s = .next t ∧ t.pc = (if s.reg x = s.reg y then s.pc + 2#16 else s.pc) ∧
      AgreeOutside {.pc} s t) ∧
    (∃ t, exec (.sner x y) s = .next t ∧ t.pc = (if s.reg x ≠ s.reg y then s.pc + 2#16 else s.pc) ∧
      AgreeOutside {.pc} s t)

/-- 42_skips.md (SKP and SKNP): with V[x] = k at most 15 they skip when key k is pressed, respectively released, and
change nothing else; with V[x] above 15 both raise the KeyIndexOutOfRange of the spec's decision D5. -/
def Obligations.KeySkipsTestTheNamedKey : Prop :=
  ∀ (s : State) (x : Reg),
    (∀ k : Fin 16, (s.reg x).toNat = k.val →
      (∃ t, exec (.skp x) s = .next t ∧ t.pc = (if s.key k = true then s.pc + 2#16 else s.pc) ∧
        AgreeOutside {.pc} s t) ∧
      (∃ t, exec (.sknp x) s = .next t ∧ t.pc = (if s.key k = false then s.pc + 2#16 else s.pc) ∧
        AgreeOutside {.pc} s t)) ∧
    ((s.reg x).toNat > 15 →
      (∃ t, exec (.skp x) s = .next t ∧
        t.fault = some ⟨.keyIndexOutOfRange, s.pc - 2#16, encode (.skp x)⟩ ∧ AgreeOutside {.latch} s t) ∧
      (∃ t, exec (.sknp x) s = .next t ∧
        t.fault = some ⟨.keyIndexOutOfRange, s.pc - 2#16, encode (.sknp x)⟩ ∧ AgreeOutside {.latch} s t))

/-! ### Registers and arithmetic -/

/-- R121, R122, R123: LDI, ADDI and MOV write V[x] (nn, the sum mod 256, V[y]) and change nothing else, VF included
unless it is V[x]. -/
def Obligations.MovesWriteOneRegister : Prop :=
  ∀ (s : State) (x y : Reg) (nn : Byte),
    (∃ t, exec (.ldi x nn) s = .next t ∧ t.reg x = nn ∧ AgreeOutside {.reg x} s t) ∧
    (∃ t, exec (.addi x nn) s = .next t ∧ (t.reg x).toNat = ((s.reg x).toNat + nn.toNat) % 256 ∧
      AgreeOutside {.reg x} s t) ∧
    (∃ t, exec (.mov x y) s = .next t ∧ t.reg x = s.reg y ∧ AgreeOutside {.reg x} s t)

/-- R124, R125, R126: OR, AND and XOR write the bitwise result to V[x] and change nothing else; bit j of the result
depends on bit j of the operands alone, and VF keeps its value unless it is V[x]. -/
def Obligations.LogicIsBitwise : Prop :=
  ∀ (s : State) (x y : Reg),
    (∃ t, exec (.or x y) s = .next t ∧
      (∀ j, (t.reg x).getLsbD j = ((s.reg x).getLsbD j || (s.reg y).getLsbD j)) ∧ AgreeOutside {.reg x} s t) ∧
    (∃ t, exec (.and x y) s = .next t ∧
      (∀ j, (t.reg x).getLsbD j = ((s.reg x).getLsbD j && (s.reg y).getLsbD j)) ∧ AgreeOutside {.reg x} s t) ∧
    (∃ t, exec (.xor x y) s = .next t ∧
      (∀ j, (t.reg x).getLsbD j = ((s.reg x).getLsbD j ^^ (s.reg y).getLsbD j)) ∧ AgreeOutside {.reg x} s t)

/-- 43_register_alu.md (ADD): V[x] becomes the sum mod 256 where x is not 15, VF becomes the carry for every x (at
x = 15 that is the spec's decision D6, log 7), nothing else changes. -/
def Obligations.AddGivesSumAndCarry : Prop :=
  ∀ (s : State) (x y : Reg),
    ∃ t, exec (.add x y) s = .next t ∧
      (x ≠ vf → (t.reg x).toNat = ((s.reg x).toNat + (s.reg y).toNat) % 256) ∧
      (t.reg vf).toNat = (if (s.reg x).toNat + (s.reg y).toNat > 255 then 1 else 0) ∧
      AgreeOutside {.reg x, .reg vf} s t

/-- 43_register_alu.md (SUB): V[x] becomes V[x] - V[y] mod 256 where x is not 15, VF becomes 0 on a borrow and 1
otherwise for every x (decision D6 at x = 15, log 7), nothing else changes. -/
def Obligations.SubGivesDifferenceAndNotBorrow : Prop :=
  ∀ (s : State) (x y : Reg),
    ∃ t, exec (.sub x y) s = .next t ∧
      (x ≠ vf → (t.reg x).toNat = ((s.reg x).toNat + 256 - (s.reg y).toNat) % 256) ∧
      (t.reg vf).toNat = (if (s.reg x).toNat < (s.reg y).toNat then 0 else 1) ∧
      AgreeOutside {.reg x, .reg vf} s t

/-- 43_register_alu.md (SUBN): V[x] becomes V[y] - V[x] mod 256 where x is not 15, VF becomes 0 when V[y] is below
V[x] and 1 otherwise for every x (decision D6 at x = 15, log 7), nothing else changes. -/
def Obligations.SubnGivesReverseDifference : Prop :=
  ∀ (s : State) (x y : Reg),
    ∃ t, exec (.subn x y) s = .next t ∧
      (x ≠ vf → (t.reg x).toNat = ((s.reg y).toNat + 256 - (s.reg x).toNat) % 256) ∧
      (t.reg vf).toNat = (if (s.reg y).toNat < (s.reg x).toNat then 0 else 1) ∧
      AgreeOutside {.reg x, .reg vf} s t

/-- 43_register_alu.md (SHR): V[x] becomes its half rounded down where x is not 15, VF becomes the old bit 0 for
every x (decision D6 at x = 15, log 7), whatever y is; nothing else changes. -/
def Obligations.ShrHalvesAndKeepsTheLowBit : Prop :=
  ∀ (s : State) (x y : Reg),
    ∃ t, exec (.shr x y) s = .next t ∧
      (x ≠ vf → (t.reg x).toNat = (s.reg x).toNat / 2) ∧
      (t.reg vf).toNat = (s.reg x).toNat % 2 ∧
      AgreeOutside {.reg x, .reg vf} s t

/-- 43_register_alu.md (SHL): V[x] becomes its double mod 256 where x is not 15, VF becomes the old bit 7 as 0 or 1
for every x (decision D6 at x = 15, log 7), whatever y is; nothing else changes. -/
def Obligations.ShlDoublesAndKeepsTheHighBit : Prop :=
  ∀ (s : State) (x y : Reg),
    ∃ t, exec (.shl x y) s = .next t ∧
      (x ≠ vf → (t.reg x).toNat = (s.reg x).toNat * 2 % 256) ∧
      (t.reg vf).toNat = (s.reg x).toNat / 128 ∧
      AgreeOutside {.reg x, .reg vf} s t

/-- 43_register_alu.md (RND): V[x] becomes the drawn byte under the mask, so every bit that is 0 in nn is 0; exactly
one draw is used, nothing else changes. The byte is the free value `Config.draw` of log 2, the model's form of the
input. -/
def Obligations.RndMasksOneDraw : Prop :=
  ∀ (s : State) (x : Reg) (nn : Byte),
    ∃ t, exec (.rnd x nn) s = .next t ∧ t.reg x = Config.draw s.draws &&& nn ∧
      (∀ j, nn.getLsbD j = false → (t.reg x).getLsbD j = false) ∧ t.draws = s.draws + 1 ∧
      AgreeOutside {.reg x, .draws} s t

/-- 10_state.md section 2 (the flag register): VF after each of the six instructions that write it as a flag,
executed in a running core that does not fault, is 0x00 or 0x01; after every other instruction that does not have VF
as its destination it is unchanged. -/
def Obligations.SixInstructionsWriteTheFlag : Prop :=
  ∀ (i : Instr) (s t : State), i.wellFormed = true → s.Running → exec i s = .next t → t.Running →
    (i.mnemonic ∈ ["ADD", "SUB", "SHR", "SUBN", "SHL", "DRW"] → t.reg vf = 0x00#8 ∨ t.reg vf = 0x01#8) ∧
    (i.mnemonic ∉ ["ADD", "SUB", "SHR", "SUBN", "SHL", "DRW"] → Component.reg vf ∉ effects i s → t.reg vf = s.reg vf)

/-! ### Index register and memory -/

/-- R140, R141: LDIX sets I to nnn zero-extended, ADDIX to I + V[x] mod 65536; nothing else changes, VF included. -/
def Obligations.IndexLoadsAndAdds : Prop :=
  ∀ (s : State) (nnn : BitVec 12) (x : Reg),
    (∃ t, exec (.ldix nnn) s = .next t ∧ t.I.toNat = nnn.toNat ∧ AgreeOutside {.index} s t) ∧
    (∃ t, exec (.addix x) s = .next t ∧ t.I.toNat = (s.I.toNat + (s.reg x).toNat) % 65536 ∧
      AgreeOutside {.index} s t)

/-- 44_index_memory.md (FONT): I becomes V[x] * 5 for every V[x] (above 15 that is the spec's decision D20, the
formula followed literally); nothing else changes. -/
def Obligations.FontPointsAtFiveTimesVx : Prop :=
  ∀ (s : State) (x : Reg),
    ∃ t, exec (.font x) s = .next t ∧ t.I.toNat = (s.reg x).toNat * 5 ∧ AgreeOutside {.index} s t

/-- 44_index_memory.md (BCD): where I + 2 is an address, the three bytes at I are the decimal digits of V[x],
hundreds first, and they are its digits: together they make V[x] and each is at most 9; every other byte and every
other piece of state is unchanged. Elsewhere it is the MemoryOutOfBounds of the spec's decision D4. -/
def Obligations.BcdStoresThreeDigits : Prop :=
  ∀ (s : State) (x : Reg),
    (s.I.toNat + 2 ≤ 0xFFF →
      ∃ t, exec (.bcd x) s = .next t ∧
        (t.readMem s.I.toNat).toNat * 100 + (t.readMem (s.I.toNat + 1)).toNat * 10 +
          (t.readMem (s.I.toNat + 2)).toNat = (s.reg x).toNat ∧
        (t.readMem s.I.toNat).toNat ≤ 2 ∧ (t.readMem (s.I.toNat + 1)).toNat ≤ 9 ∧
        (t.readMem (s.I.toNat + 2)).toNat ≤ 9 ∧ AgreeOutside (s.dataCells 3) s t) ∧
    (s.I.toNat + 2 > 0xFFF →
      ∃ t, exec (.bcd x) s = .next t ∧ t.fault = some ⟨.memoryOutOfBounds, s.pc - 2#16, encode (.bcd x)⟩ ∧
        AgreeOutside {.latch} s t)

/-- 44_index_memory.md (STM): where I + x is an address, byte I + k becomes V[k] for every k up to x; every other
byte and every other piece of state, I included (the spec's decision D7), is unchanged. Elsewhere it is the
MemoryOutOfBounds of decision D4, with no byte stored. -/
def Obligations.StmStoresTheRegisters : Prop :=
  ∀ (s : State) (x : Reg),
    (s.I.toNat + x.val ≤ 0xFFF →
      ∃ t, exec (.stm x) s = .next t ∧ (∀ k ≤ x, t.readMem (s.I.toNat + k.val) = s.reg k) ∧
        AgreeOutside (s.dataCells (x.val + 1)) s t) ∧
    (s.I.toNat + x.val > 0xFFF →
      ∃ t, exec (.stm x) s = .next t ∧ t.fault = some ⟨.memoryOutOfBounds, s.pc - 2#16, encode (.stm x)⟩ ∧
        AgreeOutside {.latch} s t)

/-- 44_index_memory.md (LDM): where I + x is an address, V[k] becomes byte I + k for every k up to x; the registers
above x and every other piece of state, I included (the spec's decision D7), are unchanged. Elsewhere it is the
MemoryOutOfBounds of decision D4, with no register written. -/
def Obligations.LdmLoadsTheRegisters : Prop :=
  ∀ (s : State) (x : Reg),
    (s.I.toNat + x.val ≤ 0xFFF →
      ∃ t, exec (.ldm x) s = .next t ∧ (∀ k ≤ x, t.reg k = s.readMem (s.I.toNat + k.val)) ∧
        AgreeOutside { c | ∃ k ≤ x, c = .reg k } s t) ∧
    (s.I.toNat + x.val > 0xFFF →
      ∃ t, exec (.ldm x) s = .next t ∧ t.fault = some ⟨.memoryOutOfBounds, s.pc - 2#16, encode (.ldm x)⟩ ∧
        AgreeOutside {.latch} s t)

/-- 44_index_memory.md (STM, LDM): storing V[0] to V[x] and loading them back, with I kept (the spec's decision D7),
gives the registers they had: only the stored bytes differ from the start. -/
def Obligations.StmThenLdmGivesTheRegistersBack : Prop :=
  ∀ (s : State) (x : Reg), s.I.toNat + x.val ≤ 0xFFF →
    ∃ t u, exec (.stm x) s = .next t ∧ exec (.ldm x) t = .next u ∧ AgreeOutside (s.dataCells (x.val + 1)) s u

/-- 20_memory.md section 4, R62: a store is seen by the next fetch. After STM has stored V[k] and V[k+1] at pc and
pc + 1, the word fetched there is V[k] * 256 + V[k+1]. -/
def Obligations.StoreIsSeenByTheNextFetch : Prop :=
  ∀ (s : State) (x k j : Reg), s.I.toNat + x.val ≤ 0xFFF → j.val = k.val + 1 → j ≤ x →
    s.pc.toNat = s.I.toNat + k.val →
    ∃ t, exec (.stm x) s = .next t ∧ t.fetchWord.toNat = (s.reg k).toNat * 256 + (s.reg j).toNat

/-! ### Display -/

/-- R150: CLS clears every cell and changes nothing else, VF included. -/
def Obligations.ClsClearsEveryPixel : Prop :=
  ∀ s : State, ∃ t, exec .cls s = .next t ∧ (∀ k, t.pixel k = false) ∧ AgreeOutside { c | ∃ k, c = .pixel k } s t

/-- 45_display.md section (DRW): where the n sprite bytes at I are in memory, exactly the cells the sprite covers
with a set bit are toggled, each once; VF becomes 1 if a covered cell was lit and 0 otherwise; nothing else changes.
Elsewhere it is the MemoryOutOfBounds of the spec's decision D4, with no cell and no register changed. -/
def Obligations.DrwXorsTheSprite : Prop :=
  ∀ (s : State) (x y : Reg) (n : Nat), n ≤ 15 →
    ((n = 0 ∨ s.I.toNat + n - 1 ≤ 0xFFF) →
      ∃ t, exec (.drw x y n) s = .next t ∧
        (∀ k, s.spriteCovers x y n k → t.pixel k = !s.pixel k) ∧
        ((∃ k, s.spriteCovers x y n k ∧ s.pixel k = true) → t.reg vf = 0x01#8) ∧
        ((¬∃ k, s.spriteCovers x y n k ∧ s.pixel k = true) → t.reg vf = 0x00#8) ∧
        AgreeOutside { c | c = .reg vf ∨ ∃ k, s.spriteCovers x y n k ∧ c = .pixel k } s t) ∧
    (0 < n ∧ s.I.toNat + n - 1 > 0xFFF →
      ∃ t, exec (.drw x y n) s = .next t ∧
        t.fault = some ⟨.memoryOutOfBounds, s.pc - 2#16, encode (.drw x y n)⟩ ∧ AgreeOutside {.latch} s t)

/-- 45_display.md, R152 (a), an inference of the spec: the cells of one sprite of at most 15 rows are pairwise
distinct and are cells of the display. -/
def Obligations.SpriteCellsAreDistinct : Prop :=
  ∀ (vx vy : Byte) (row col row' col' : Nat), row < 15 → col < 8 → row' < 15 → col' < 8 →
    spriteCell vx vy row col < 2048 ∧
    (spriteCell vx vy row col = spriteCell vx vy row' col' → row = row' ∧ col = col')

/-- 45_display.md, R152 (c), an inference of the spec: the same DRW twice, with neither origin register VF, gives the
display back; if no covered cell was lit before, the first draw leaves VF = 0 and the second VF = 1 exactly when the
sprite covers a cell. -/
def Obligations.DrawingTwiceIsTheIdentity : Prop :=
  ∀ (s : State) (x y : Reg) (n : Nat), n ≤ 15 → x ≠ vf → y ≠ vf → (n = 0 ∨ s.I.toNat + n - 1 ≤ 0xFFF) →
    ∃ t u, exec (.drw x y n) s = .next t ∧ exec (.drw x y n) t = .next u ∧ u.disp = s.disp ∧
      ((∀ k, s.spriteCovers x y n k → s.pixel k = false) →
        t.reg vf = 0x00#8 ∧ (u.reg vf = 0x01#8 ↔ ∃ k, s.spriteCovers x y n k))

/-! ### Timers and keys -/

/-- R160, R162, R163: GETDT copies DT to V[x], SETDT copies V[x] to DT, SETST copies V[x] to ST; nothing else
changes. -/
def Obligations.TimerInstructionsCopyAByte : Prop :=
  ∀ (s : State) (x : Reg),
    (∃ t, exec (.getdt x) s = .next t ∧ t.reg x = s.DT ∧ AgreeOutside {.reg x} s t) ∧
    (∃ t, exec (.setdt x) s = .next t ∧ t.DT = s.reg x ∧ AgreeOutside {.delay} s t) ∧
    (∃ t, exec (.setst x) s = .next t ∧ t.ST = s.reg x ∧ AgreeOutside {.sound} s t)

/-- R161: WAITK takes the lowest pressed key into V[x] and leaves pc; with no key pressed it moves pc back by 2;
nothing else changes. -/
def Obligations.WaitkTakesTheLowestKey : Prop :=
  ∀ (s : State) (x : Reg),
    (∀ k : Fin 16, s.key k = true → (∀ j < k, s.key j = false) →
      ∃ t, exec (.waitk x) s = .next t ∧ (t.reg x).toNat = k.val ∧ AgreeOutside {.reg x} s t) ∧
    ((∀ k, s.key k = false) →
      ∃ t, exec (.waitk x) s = .next t ∧ t.pc = s.pc - 2#16 ∧ AgreeOutside {.pc} s t)

/-- 46_timers_keys.md (WAITK): a tick of WAITK with no key pressed changes nothing at all, and the next tick is the
same again. -/
def Obligations.WaitingTickChangesNothing : Prop :=
  ∀ (s : State) (x : Reg), s.Running → s.pc.toNat ≤ 0xFFE → decodeWord s.fetchWord = .ok (.waitk x) →
    (∀ k, s.key k = false) → step s = .next s

/-! ### Reset and invariants -/

/-- R38: the value of every field after reset, the same after construction and after every host reset; memory is
FONT below 0x050 and zero above, for every value of that parameter, and the model's `State.reset` is the reset state of
one (log 3). (The model's own draw counter goes on through a host reset, log 2.) -/
def Obligations.ResetValues : Prop :=
  (∃ font, State.reset = State.resetWith font) ∧
  ∀ (font : Font) (r : State), r = State.resetWith font →
    r.pc = 0x0200#16 ∧
    (∀ a (h : a < 80), r.readMem a = font[a]) ∧ (∀ a, 80 ≤ a → a < 4096 → r.readMem a = 0x00#8) ∧
    (∀ k < 2048, r.pixel k = false) ∧
    (∀ x, r.reg x = 0x00#8) ∧
    r.I = 0x0000#16 ∧ r.sp.val = 0 ∧ (∀ k, r.slot k = 0x0000#16) ∧
    (∀ k, r.key k = false) ∧ r.DT = 0x00#8 ∧ r.ST = 0x00#8 ∧
    r.fault = none ∧
    ∀ s : State, s.font = font → AgreeOutside {.draws} r (transact .reset s).1

/-- R220: the host's reset gives, from every state, halted or not, the reset state in every field of the spec, with the
FONT the machine has (log 3), and no sound event. (The model's own draw counter keeps its value, log 2.) -/
def Obligations.HostResetFromAnyState : Prop :=
  ∀ s : State, ∃ t, transact .reset s = (t, .done) ∧ AgreeOutside {.draws} (State.resetWith s.font) t

/-- 10_state.md section 9: the reset state meets the invariant (its first part, the canonical form of
memory, is the model's choice, log 4), for every value of FONT. -/
def Obligations.ResetMeetsTheInvariant : Prop := State.reset.Inv ∧ ∀ font, (State.resetWith font).Inv

/-- 10_state.md section 9, R39 (an inference of the spec), and the canonical form of memory (the model's choice, log 4):
every tick keeps the invariant, from every state that meets it. -/
def Obligations.StepKeepsTheInvariant : Prop :=
  ∀ s t : State, s.Inv → step s = .next t → t.Inv

/-- 10_state.md section 9, R39 (an inference of the spec), and the canonical form of memory (the model's choice, log 4):
every operation of the host keeps the invariant, from every state that meets it. -/
def Obligations.TransactionsKeepTheInvariant : Prop :=
  ∀ (op : HostOp) (s : State), s.Inv → (transact op s).1.Inv

/-- 10_state.md section 9, R39 (an inference of the spec): in every state reached by any sequence of host operations
pc is at most 0x10FE, every slot at most 0x1000 and sp at most 16, and the next pc never wraps at 16 bits. -/
def Obligations.ReachableStatesAreInRange : Prop :=
  ∀ s : State, Reachable s →
    s.pc.toNat ≤ 0x10FE ∧ (∀ k, (s.slot k).toNat ≤ 0x1000) ∧ s.sp.val ≤ 16 ∧
    (s.pc + 4#16).toNat = s.pc.toNat + 4

/-! ### Host operations -/

/-- 47_host_operations.md section 2 (R172, R174) and 70_reset_and_hazards.md section 1 (R220, R223): an image of at
most 3584 bytes is accepted; byte k goes to 0x200 + k and nothing else changes, in every state, halted included (that
load acts at any time is the spec's decision D18, log 9). After reset and then load, from any state, pc is 0x200, the
image is at 0x200, the font region is intact and no fault is latched (the latch is the spec's decision D9, log 1). -/
def Obligations.LoadCopiesTheImage : Prop :=
  ∀ (bytes : List Byte) (s : State), bytes.length ≤ 3584 →
    (∃ t, transact (.load bytes) s = (t, .done) ∧
      (∀ k (h : k < bytes.length), t.readMem (0x200 + k) = bytes[k]) ∧
      AgreeOutside { c | ∃ k < bytes.length, c = .mem (0x200 + k) } s t) ∧
    (∃ t, runHost [.reset, .load bytes] s = (t, [.done, .done]) ∧ t.Running ∧ t.pc = 0x0200#16 ∧
      (∀ k (h : k < bytes.length), t.readMem (0x200 + k) = bytes[k]) ∧
      (∀ a (h : a < 80), t.readMem a = s.font[a]))

/-- R178: tick_timer takes each timer that is not 0 down by 1, on its own, gives the sound event exactly when ST was
1, and changes nothing else. -/
def Obligations.TickTimerCountsDown : Prop :=
  ∀ s : State, ∃ t, transact .tickTimer s = (t, if s.ST.toNat = 1 then .sound else .done) ∧
    t.DT.toNat = s.DT.toNat - 1 ∧ t.ST.toNat = s.ST.toNat - 1 ∧ AgreeOutside {.delay, .sound} s t

/-- 47_host_operations.md section 4, R180 (an inference of the spec): of m tick_timer operations from a state with
ST = v at least 1, exactly the v-th gives the sound event, if it comes; DT has fallen by m, floored at 0. -/
def Obligations.OneSoundEventPerCountdown : Prop :=
  ∀ (s : State) (m : Nat), 1 ≤ s.ST.toNat →
    (runHost (List.replicate m .tickTimer) s).2 =
      (List.range m).map (fun k => if k + 1 = s.ST.toNat then Reply.sound else Reply.done) ∧
    (runHost (List.replicate m .tickTimer) s).1.DT.toNat = s.DT.toNat - m

/-- R181: keypress writes the one cell of its index and changes nothing else. -/
def Obligations.KeypressWritesOneKey : Prop :=
  ∀ (s : State) (k : Fin 16) (pressed : Bool),
    ∃ t, transact (.keypress k.val pressed) s = (t, .done) ∧ t.key k = pressed ∧ AgreeOutside {.key k} s t

/-- 60_exceptions.md section 4, R208 (the spec's decisions D12 and D13): an image of more than 3584 bytes and a key
index above 15 are refused, each under its own name, and change no state, the latch included. -/
def Obligations.HostRefusalsChangeNothing : Prop :=
  ∀ s : State,
    (∀ bytes : List Byte, bytes.length > 3584 → transact (.load bytes) s = (s, .refused .loadOutOfBounds)) ∧
    (∀ (index : Nat) (pressed : Bool), index > 15 →
      transact (.keypress index pressed) s = (s, .refused .keypressOutOfRange))

/-- R177: get_display gives the 2048 bits of the display, cell (x, y) at index x + 64 y, and changes nothing. -/
def Obligations.GetDisplayReadsOnly : Prop :=
  ∀ s : State, ∃ grid, transact .getDisplay s = (s, .display grid) ∧
    ∀ x < 64, ∀ y < 32, grid.getLsbD (x + 64 * y) = s.pixel (x + 64 * y)

/-- 47_host_operations.md section 3: a tick gives no sound event and changes a timer only by SETDT and SETST; and
10_state.md section 7: no instruction writes a key. -/
def Obligations.TickMovesNoTimerAndNoKey : Prop :=
  ∀ s t : State, step s = .next t →
    (transact .tick s) = (t, .done) ∧
    (t.DT ≠ s.DT → ∃ x, decodeWord s.fetchWord = .ok (.setdt x)) ∧
    (t.ST ≠ s.ST → ∃ x, decodeWord s.fetchWord = .ok (.setst x)) ∧
    ∀ k, t.key k = s.key k

/-- 60_exceptions.md section 1, R194 (the spec's decision D21): while halted, a tick changes nothing, load, keypress,
tick_timer and get_display act and reply as they would in the same state unhalted, the latch keeps its record
through all of them, and reset clears it. -/
def Obligations.HaltedOnlyResetClearsTheLatch : Prop :=
  ∀ (op : HostOp) (s : State), s.Halted →
    (op = .tick → transact op s = (s, .done)) ∧
    (op = .reset → (transact op s).1.Running) ∧
    (op ≠ .tick → op ≠ .reset →
      (transact op s).1 = { (transact op { s with fault := none }).1 with fault := s.fault } ∧
      (transact op s).2 = (transact op { s with fault := none }).2)

/-- 00_scope.md R7 in the model's form (log 3): FONT is a parameter of the machine, so no host operation, whatever its
arguments and from whatever state, changes the value the machine has. -/
def Obligations.FontIsAParameter : Prop :=
  ∀ (op : HostOp) (s : State), (transact op s).1.font = s.font
end

