-- ==== Sys2Proof/Laws/Decode.lean ====
section
/-! SUPPORT. The fields of an encoded word, and the word a list of fields makes. -/

namespace Sys2Proof

/-! ### Bytes of a word -/

theorem wordOfBytes_wordBytes (op : Word16) : wordOfBytes (hiByte op) (loByte op) = op := by
  apply BitVec.eq_of_getLsbD_eq
  intro i hi
  simp only [wordOfBytes, hiByte, loByte, BitVec.getLsbD_append, BitVec.getLsbD_extractLsb']
  by_cases h : i < 8
  · simp [h]
  · have : i - 8 < 8 := by omega
    have e : 8 + (i - 8) = i := by omega
    simp [h, this, e]

theorem hiByte_wordOfBytes (hi lo : Byte) : hiByte (wordOfBytes hi lo) = hi := by
  apply BitVec.eq_of_getLsbD_eq
  intro i h
  simp only [wordOfBytes, hiByte, BitVec.getLsbD_extractLsb', BitVec.getLsbD_append]
  simp [h]

theorem loByte_wordOfBytes (hi lo : Byte) : loByte (wordOfBytes hi lo) = lo := by
  apply BitVec.eq_of_getLsbD_eq
  intro i h
  simp only [wordOfBytes, loByte, BitVec.getLsbD_extractLsb', BitVec.getLsbD_append]
  simp [h]

/-- Decoding the two bytes of a word is decoding the word; the bytes after it are left over. -/
theorem decode_wordBytes (op : Word16) (rest : List Byte) :
    decode (wordBytes op ++ rest) = (decodeWord op).map fun i => (i, rest) := by
  simp only [wordBytes, List.cons_append, List.nil_append, decode, wordOfBytes_wordBytes]
  cases decodeWord op <;> rfl

/-! ### The bytes of an image (R82) -/

@[simp] theorem assemble_nil : assemble [] = [] := rfl

@[simp] theorem assemble_cons (l : ImageLine) (ls : List ImageLine) : assemble (l :: ls) = l.bytes ++ assemble ls := rfl

/-- An image whose first line is a DW decodes as that word does; the rest of the image is left over. -/
theorem decode_assemble_dw (w : Word16) (ls : List ImageLine) :
    decode (assemble (.dw w :: ls)) = (decodeWord w).map fun i => (i, assemble ls) := by
  rw [assemble_cons, ImageLine.bytes, decode_wordBytes]

/-! ### The fields of a word made by each format of R73 -/

theorem nib3_formatA (n3 : Nibble) (nnn : BitVec 12) : nib3 (formatA n3 nnn) = n3 := by
  apply BitVec.eq_of_getLsbD_eq
  intro i h
  simp only [nib3, formatA, BitVec.getLsbD_extractLsb', BitVec.getLsbD_append]
  simp [h]

theorem nnnField_formatA (n3 : Nibble) (nnn : BitVec 12) : nnnField (formatA n3 nnn) = nnn := by
  apply BitVec.eq_of_getLsbD_eq
  intro i h
  simp only [nnnField, formatA, BitVec.getLsbD_extractLsb', BitVec.getLsbD_append]
  simp [h]

theorem nib3_formatXI (n3 : Nibble) (x : Reg) (nn : Byte) : nib3 (formatXI n3 x nn) = n3 := by
  apply BitVec.eq_of_getLsbD_eq
  intro i h
  have h1 : ¬ 12 + i < 8 := by omega
  have h2 : ¬ 12 + i - 8 < 4 := by omega
  have h3 : 12 + i - 8 - 4 = i := by omega
  simp only [nib3, formatXI, BitVec.getLsbD_extractLsb', BitVec.getLsbD_append]
  simp [h, h1, h2, h3]

theorem nnField_formatXI (n3 : Nibble) (x : Reg) (nn : Byte) : nnField (formatXI n3 x nn) = nn := by
  apply BitVec.eq_of_getLsbD_eq
  intro i h
  simp only [nnField, formatXI, BitVec.getLsbD_extractLsb', BitVec.getLsbD_append]
  simp [h]

theorem xField_formatXI (n3 : Nibble) (x : Reg) (nn : Byte) : xField (formatXI n3 x nn) = x := by
  have : nib2 (formatXI n3 x nn) = BitVec.ofFin (w := 4) x := by
    apply BitVec.eq_of_getLsbD_eq
    intro i h
    have h1 : ¬ 8 + i < 8 := by omega
    have h2 : 8 + i - 8 < 4 := by omega
    have h3 : 8 + i - 8 = i := by omega
    simp only [nib2, formatXI, BitVec.getLsbD_extractLsb', BitVec.getLsbD_append]
    simp [h]
  simp [xField, this]

theorem nib3_formatXY (n3 : Nibble) (x y : Reg) (n0 : Nibble) : nib3 (formatXY n3 x y n0) = n3 := by
  apply BitVec.eq_of_getLsbD_eq
  intro i h
  have h1 : ¬ 12 + i < 4 := by omega
  have h2 : ¬ 12 + i - 4 < 4 := by omega
  have h3 : ¬ 12 + i - 4 - 4 < 4 := by omega
  have h4 : 12 + i - 4 - 4 - 4 = i := by omega
  simp only [nib3, formatXY, BitVec.getLsbD_extractLsb', BitVec.getLsbD_append]
  simp [h, h1, h2, h3, h4]

theorem nib0_formatXY (n3 : Nibble) (x y : Reg) (n0 : Nibble) : nib0 (formatXY n3 x y n0) = n0 := by
  apply BitVec.eq_of_getLsbD_eq
  intro i h
  simp only [nib0, formatXY, BitVec.getLsbD_extractLsb', BitVec.getLsbD_append]
  simp [h]

theorem xField_formatXY (n3 : Nibble) (x y : Reg) (n0 : Nibble) : xField (formatXY n3 x y n0) = x := by
  have : nib2 (formatXY n3 x y n0) = BitVec.ofFin (w := 4) x := by
    apply BitVec.eq_of_getLsbD_eq
    intro i h
    have h1 : ¬ 8 + i < 4 := by omega
    have h2 : ¬ 8 + i - 4 < 4 := by omega
    have h3 : 8 + i - 4 - 4 < 4 := by omega
    have h4 : 8 + i - 4 - 4 = i := by omega
    simp only [nib2, formatXY, BitVec.getLsbD_extractLsb', BitVec.getLsbD_append]
    simp [h, h1, h2, h4]
  simp [xField, this]

theorem yField_formatXY (n3 : Nibble) (x y : Reg) (n0 : Nibble) : yField (formatXY n3 x y n0) = y := by
  have : nib1 (formatXY n3 x y n0) = BitVec.ofFin (w := 4) y := by
    apply BitVec.eq_of_getLsbD_eq
    intro i h
    have h1 : ¬ 4 + i < 4 := by omega
    have h4 : 4 + i - 4 = i := by omega
    simp only [nib1, formatXY, BitVec.getLsbD_extractLsb', BitVec.getLsbD_append]
    simp [h]
  simp [yField, this]

/-! ### A word from its fields -/

theorem formatA_fields (op : Word16) : formatA (nib3 op) (nnnField op) = op := by
  apply BitVec.eq_of_getLsbD_eq
  intro i hi
  simp only [formatA, nib3, nnnField, BitVec.getLsbD_append, BitVec.getLsbD_extractLsb']
  by_cases h : i < 12
  · simp [h]
  · have h1 : i - 12 < 4 := by omega
    have h2 : 12 + (i - 12) = i := by omega
    simp [h, h1, h2]

theorem formatXI_fields (op : Word16) : formatXI (nib3 op) (xField op) (nnField op) = op := by
  apply BitVec.eq_of_getLsbD_eq
  intro i hi
  simp only [formatXI, xField, nib3, nib2, nnField, BitVec.getLsbD_append, BitVec.getLsbD_extractLsb',
    BitVec.ofFin_toFin]
  by_cases h : i < 8
  · simp [h]
  · by_cases h' : i - 8 < 4
    · have h2 : 8 + (i - 8) = i := by omega
      simp [h, h', h2]
    · have h1 : i - 8 - 4 < 4 := by omega
      have h2 : 12 + (i - 8 - 4) = i := by omega
      simp [h, h', h1, h2]

theorem formatXY_fields (op : Word16) : formatXY (nib3 op) (xField op) (yField op) (nib0 op) = op := by
  apply BitVec.eq_of_getLsbD_eq
  intro i hi
  simp only [formatXY, xField, yField, nib3, nib2, nib1, nib0, BitVec.getLsbD_append, BitVec.getLsbD_extractLsb',
    BitVec.ofFin_toFin]
  by_cases h : i < 4
  · simp [h]
  · by_cases h' : i - 4 < 4
    · have h2 : 4 + (i - 4) = i := by omega
      simp [h, h', h2]
    · by_cases h'' : i - 4 - 4 < 4
      · have h2 : 8 + (i - 4 - 4) = i := by omega
        simp [h, h', h'', h2]
      · have h1 : i - 4 - 4 - 4 < 4 := by omega
        have h2 : 12 + (i - 4 - 4 - 4) = i := by omega
        simp [h, h', h'', h1, h2]

end Sys2Proof
end

