-- ==== Sys2Proof/Laws/Memory.lean ====
section
/-! SUPPORT. The laws of memory: a read after a write, consecutive writes, and that every memory operation keeps the
canonical form. -/

namespace Sys2Proof.Machine

/-- What an unlisted address reads as, above the font. -/
theorem initialByte_of_ge (font : Font) {a : Nat} (h : 80 ≤ a) : initialByte font a = 0#8 :=
  dif_neg (Nat.not_lt.mpr h)

/-- What an unlisted address reads as, in the font. -/
theorem initialByte_of_lt (font : Font) {a : Nat} (h : a < 80) : initialByte font a = font[a] := dif_pos h

variable {font : Font}

theorem Memory.read_filter_ne (m : Memory) (a a' : Nat) :
    Memory.read font (m.filter fun c => c.1 != a) a' = if a' = a then initialByte font a else Memory.read font m a' := by
  induction m with
  | nil => by_cases h : a' = a <;> simp [Memory.read, h]
  | cons c m ih =>
    obtain ⟨k, b⟩ := c
    by_cases hk : k = a
    · subst hk
      simp only [List.filter_cons, bne_self_eq_false, Bool.false_eq_true, if_false, ih, Memory.read]
      by_cases h : a' = k
      · simp [h]
      · simp [h, Ne.symm h]
    · have : (k != a) = true := by simpa using hk
      simp only [List.filter_cons, this, if_true, Memory.read, ih]
      by_cases h : k = a'
      · subst h; simp [hk]
      · simp [h]

theorem Memory.read_insert (m : Memory) (a a' : Nat) (b : Byte) (h : ∀ c ∈ m, c.1 ≠ a) :
    Memory.read font (Memory.insert a b m) a' = if a' = a then b else Memory.read font m a' := by
  induction m with
  | nil => by_cases h : a = a' <;> simp [Memory.insert, Memory.read, h, Ne.symm]
  | cons c m ih =>
    obtain ⟨k, d⟩ := c
    have hk : k ≠ a := h (k, d) (by simp)
    have ih' := ih fun c hc => h c (List.mem_cons_of_mem _ hc)
    unfold Memory.insert
    split
    · by_cases e : a' = a
      · simp [Memory.read, e]
      · simp [Memory.read, e, Ne.symm e]
    · by_cases e : k = a'
      · subst e; simp [Memory.read, hk]
      · simp [Memory.read, e, ih']

/-- A read after a write: the byte written at its address, every other address as before. -/
theorem Memory.read_write (m : Memory) (a a' : Nat) (b : Byte) :
    (m.write font a b).read font a' = if a' = a then b else m.read font a' := by
  unfold Memory.write
  simp only
  split
  · rename_i h
    rw [Memory.read_filter_ne, h]
  · rw [Memory.read_insert _ _ _ _ (by intro c hc; simpa using (List.mem_filter.mp hc).2), Memory.read_filter_ne]
    split <;> simp [*]

/-- A read after consecutive writes: byte a' - a of those written, every other address as before. -/
theorem Memory.read_writeBytes (m : Memory) (a a' : Nat) (bs : List Byte) :
    (m.writeBytes font a bs).read font a' =
      if a ≤ a' ∧ a' < a + bs.length then bs.getD (a' - a) 0#8 else m.read font a' := by
  induction bs generalizing m a with
  | nil =>
    have : ¬(a ≤ a' ∧ a' < a + 0) := by omega
    simp only [Memory.writeBytes, List.length_nil, this, if_false]
  | cons b bs ih =>
    simp only [Memory.writeBytes, ih, Memory.read_write, List.length_cons]
    rcases Nat.lt_trichotomy a' a with h | h | h
    · have h1 : ¬(a + 1 ≤ a' ∧ a' < a + 1 + bs.length) := by omega
      have h2 : ¬(a ≤ a' ∧ a' < a + (bs.length + 1)) := by omega
      have h3 : a' ≠ a := by omega
      simp only [h1, h2, h3, if_false]
    · subst h
      simp
    · obtain ⟨j, rfl⟩ : ∃ j, a' = a + j + 1 := ⟨a' - a - 1, by omega⟩
      have e1 : a + j + 1 - (a + 1) = j := by omega
      have e2 : a + j + 1 - a = j + 1 := by omega
      have h3 : a + j + 1 ≠ a := by omega
      simp only [h3, if_false, e1, e2, List.getD_cons_succ]
      congr 1
      apply propext
      omega

theorem State.readMem_storeBytes (s : State) (a a' : Nat) (bs : List Byte) :
    (s.storeBytes a bs).readMem a' =
      if a ≤ a' ∧ a' < a + bs.length then bs.getD (a' - a) 0#8 else s.readMem a' :=
  Memory.read_writeBytes _ _ _ _

/-! ### The canonical form -/

theorem Memory.wf_nil : Memory.wf font [] := ⟨List.Pairwise.nil, by simp⟩

theorem Memory.wf_filter {m : Memory} (h : m.wf font) (p : Host.Cell → Bool) : Memory.wf font (m.filter p) :=
  ⟨h.1.filter p, fun c hc => h.2 c (List.mem_filter.mp hc).1⟩

theorem Memory.mem_insert {m : Memory} {a : Nat} {b : Byte} {c : Host.Cell} :
    c ∈ Memory.insert a b m ↔ c = (a, b) ∨ c ∈ m := by
  induction m with
  | nil => simp [Memory.insert]
  | cons d m ih =>
    obtain ⟨k, e⟩ := d
    unfold Memory.insert
    split
    · simp
    · simp only [List.mem_cons, ih]
      tauto

theorem Memory.wf_insert {m : Memory} {a : Nat} {b : Byte} (h : m.wf font) (ha : a < Config.memSize)
    (hb : b ≠ initialByte font a) (hne : ∀ c ∈ m, c.1 ≠ a) : Memory.wf font (Memory.insert a b m) := by
  refine ⟨?_, fun c hc => ?_⟩
  · obtain ⟨hp, -⟩ := h
    induction m with
    | nil => simp [Memory.insert]
    | cons d m ih =>
      obtain ⟨k, e⟩ := d
      obtain ⟨h1, h2⟩ := List.pairwise_cons.mp hp
      have hk : k ≠ a := hne (k, e) (by simp)
      unfold Memory.insert
      split
      · rename_i lt
        refine List.pairwise_cons.mpr ⟨fun c hc => ?_, hp⟩
        rcases List.mem_cons.mp hc with rfl | hc
        · exact lt
        · exact lt_trans lt (h1 c hc)
      · rename_i nlt
        refine List.pairwise_cons.mpr ⟨fun c hc => ?_, ih (fun c hc => hne c (List.mem_cons_of_mem _ hc)) h2⟩
        rcases Memory.mem_insert.mp hc with rfl | hc
        · show k < a
          omega
        · exact h1 c hc
  · rcases Memory.mem_insert.mp hc with rfl | hc
    · exact ⟨ha, hb⟩
    · exact h.2 c hc

/-- A write to an address of memory keeps the canonical form. -/
theorem Memory.wf_write {m : Memory} (h : m.wf font) {a : Nat} (ha : a < Config.memSize) (b : Byte) :
    (m.write font a b).wf font := by
  unfold Memory.write
  simp only
  split
  · exact Memory.wf_filter h _
  · exact Memory.wf_insert (Memory.wf_filter h _) ha ‹_›
      (by intro c hc; simpa using (List.mem_filter.mp hc).2)

/-- Consecutive writes to addresses of memory keep the canonical form. -/
theorem Memory.wf_writeBytes {m : Memory} (h : m.wf font) {a : Nat} (bs : List Byte)
    (ha : a + bs.length ≤ Config.memSize) : (m.writeBytes font a bs).wf font := by
  induction bs generalizing m a with
  | nil => exact h
  | cons b bs ih =>
    simp only [List.length_cons] at ha
    exact ih (Memory.wf_write h (by omega) b) (by omega)

theorem Memory.wf_reset : (State.resetWith font).mem.wf font := Memory.wf_nil

/-- The canonical form is canonical: two memories in it that read alike are equal lists. -/
theorem Memory.eq_of_read_eq {m m' : Memory} (h : m.wf font) (h' : m'.wf font) (e : ∀ a, m.read font a = m'.read font a) : m = m' := by
  have listed : ∀ {m : Memory}, m.wf font → ∀ c ∈ m, m.read font c.1 = c.2 := by
    intro m hm
    induction m with
    | nil => simp
    | cons d m ih =>
      intro c hc
      obtain ⟨h1, h2⟩ := List.pairwise_cons.mp hm.1
      rcases List.mem_cons.mp hc with rfl | hc'
      · obtain ⟨k, b⟩ := c; simp [Memory.read]
      · have : d.1 ≠ c.1 := (h1 c hc').ne
        obtain ⟨k, b⟩ := d
        simp only at this
        simp only [Memory.read, this, if_false]
        exact ih ⟨h2, fun c hc => hm.2 c (List.mem_cons_of_mem _ hc)⟩ c hc'
  have unlisted : ∀ {m : Memory} {a : Nat}, (∀ c ∈ m, c.1 ≠ a) → m.read font a = initialByte font a := by
    intro m a hne
    induction m with
    | nil => rfl
    | cons d m ih =>
      obtain ⟨k, b⟩ := d
      have : k ≠ a := hne (k, b) (by simp)
      simp only [Memory.read, this, if_false]
      exact ih fun c hc => hne c (List.mem_cons_of_mem _ hc)
  have sub : ∀ {m m' : Memory}, m.wf font → m'.wf font → (∀ a, m.read font a = m'.read font a) → ∀ c ∈ m, c ∈ m' := by
    intro m m' hm hm' e c hc
    by_contra hn
    have hv : m'.read font c.1 = c.2 := (e c.1).symm.trans (listed hm c hc)
    by_cases hl : ∃ d ∈ m', d.1 = c.1
    · obtain ⟨d, hd, hd1⟩ := hl
      have : d.2 = c.2 := by rw [← listed hm' d hd, hd1, hv]
      exact hn (by rw [← Prod.ext hd1 this]; exact hd)
    · exact (hm.2 c hc).2 (by rw [← hv, unlisted (fun d hd he => hl ⟨d, hd, he⟩)])
  have irr : Std.Irrefl (fun c d : Host.Cell => c.1 < d.1) := ⟨fun c => lt_irrefl c.1⟩
  refine List.Perm.eq_of_pairwise (le := fun c d : Host.Cell => c.1 < d.1)
    (fun a b _ _ hab hba => absurd (lt_trans hab hba) (lt_irrefl _)) h.1 h'.1 ?_
  refine (List.perm_ext_iff_of_nodup ?_ ?_).mpr fun c => ⟨sub h h' e c, sub h' h (fun a => (e a).symm) c⟩
  · exact h.1.imp fun hlt he => (he ▸ hlt).ne rfl
  · exact h'.1.imp fun hlt he => (he ▸ hlt).ne rfl

end Sys2Proof.Machine
end

