-- ==== Sys2Proof/Laws/State.lean ====
section
/-! SUPPORT. One lemma per field per update of the state, each true by rfl, and the accessors of a register after
an update. -/

namespace Sys2Proof.Machine

/-! ### setReg -/

@[simp] theorem State.setReg_pc (s : State) (r : Reg) (v : Byte) : (s.setReg r v).pc = s.pc := rfl
@[simp] theorem State.setReg_mem (s : State) (r : Reg) (v : Byte) : (s.setReg r v).mem = s.mem := rfl
@[simp] theorem State.setReg_disp (s : State) (r : Reg) (v : Byte) : (s.setReg r v).disp = s.disp := rfl
@[simp] theorem State.setReg_V (s : State) (r : Reg) (v : Byte) : (s.setReg r v).V = s.V.set r.val v r.isLt := rfl
@[simp] theorem State.setReg_I (s : State) (r : Reg) (v : Byte) : (s.setReg r v).I = s.I := rfl
@[simp] theorem State.setReg_sp (s : State) (r : Reg) (v : Byte) : (s.setReg r v).sp = s.sp := rfl
@[simp] theorem State.setReg_stack (s : State) (r : Reg) (v : Byte) : (s.setReg r v).stack = s.stack := rfl
@[simp] theorem State.setReg_keys (s : State) (r : Reg) (v : Byte) : (s.setReg r v).keys = s.keys := rfl
@[simp] theorem State.setReg_DT (s : State) (r : Reg) (v : Byte) : (s.setReg r v).DT = s.DT := rfl
@[simp] theorem State.setReg_ST (s : State) (r : Reg) (v : Byte) : (s.setReg r v).ST = s.ST := rfl
@[simp] theorem State.setReg_fault (s : State) (r : Reg) (v : Byte) : (s.setReg r v).fault = s.fault := rfl
@[simp] theorem State.setReg_draws (s : State) (r : Reg) (v : Byte) : (s.setReg r v).draws = s.draws := rfl
@[simp] theorem State.setReg_font (s : State) (r : Reg) (v : Byte) : (s.setReg r v).font = s.font := rfl

/-! ### setPc -/

@[simp] theorem State.setPc_pc (s : State) (v : Word16) : (s.setPc v).pc = v := rfl
@[simp] theorem State.setPc_mem (s : State) (v : Word16) : (s.setPc v).mem = s.mem := rfl
@[simp] theorem State.setPc_disp (s : State) (v : Word16) : (s.setPc v).disp = s.disp := rfl
@[simp] theorem State.setPc_V (s : State) (v : Word16) : (s.setPc v).V = s.V := rfl
@[simp] theorem State.setPc_I (s : State) (v : Word16) : (s.setPc v).I = s.I := rfl
@[simp] theorem State.setPc_sp (s : State) (v : Word16) : (s.setPc v).sp = s.sp := rfl
@[simp] theorem State.setPc_stack (s : State) (v : Word16) : (s.setPc v).stack = s.stack := rfl
@[simp] theorem State.setPc_keys (s : State) (v : Word16) : (s.setPc v).keys = s.keys := rfl
@[simp] theorem State.setPc_DT (s : State) (v : Word16) : (s.setPc v).DT = s.DT := rfl
@[simp] theorem State.setPc_ST (s : State) (v : Word16) : (s.setPc v).ST = s.ST := rfl
@[simp] theorem State.setPc_fault (s : State) (v : Word16) : (s.setPc v).fault = s.fault := rfl
@[simp] theorem State.setPc_draws (s : State) (v : Word16) : (s.setPc v).draws = s.draws := rfl
@[simp] theorem State.setPc_font (s : State) (v : Word16) : (s.setPc v).font = s.font := rfl

/-! ### setI -/

@[simp] theorem State.setI_pc (s : State) (v : Word16) : (s.setI v).pc = s.pc := rfl
@[simp] theorem State.setI_mem (s : State) (v : Word16) : (s.setI v).mem = s.mem := rfl
@[simp] theorem State.setI_disp (s : State) (v : Word16) : (s.setI v).disp = s.disp := rfl
@[simp] theorem State.setI_V (s : State) (v : Word16) : (s.setI v).V = s.V := rfl
@[simp] theorem State.setI_I (s : State) (v : Word16) : (s.setI v).I = v := rfl
@[simp] theorem State.setI_sp (s : State) (v : Word16) : (s.setI v).sp = s.sp := rfl
@[simp] theorem State.setI_stack (s : State) (v : Word16) : (s.setI v).stack = s.stack := rfl
@[simp] theorem State.setI_keys (s : State) (v : Word16) : (s.setI v).keys = s.keys := rfl
@[simp] theorem State.setI_DT (s : State) (v : Word16) : (s.setI v).DT = s.DT := rfl
@[simp] theorem State.setI_ST (s : State) (v : Word16) : (s.setI v).ST = s.ST := rfl
@[simp] theorem State.setI_fault (s : State) (v : Word16) : (s.setI v).fault = s.fault := rfl
@[simp] theorem State.setI_draws (s : State) (v : Word16) : (s.setI v).draws = s.draws := rfl
@[simp] theorem State.setI_font (s : State) (v : Word16) : (s.setI v).font = s.font := rfl

/-! ### setDT -/

@[simp] theorem State.setDT_pc (s : State) (v : Byte) : (s.setDT v).pc = s.pc := rfl
@[simp] theorem State.setDT_mem (s : State) (v : Byte) : (s.setDT v).mem = s.mem := rfl
@[simp] theorem State.setDT_disp (s : State) (v : Byte) : (s.setDT v).disp = s.disp := rfl
@[simp] theorem State.setDT_V (s : State) (v : Byte) : (s.setDT v).V = s.V := rfl
@[simp] theorem State.setDT_I (s : State) (v : Byte) : (s.setDT v).I = s.I := rfl
@[simp] theorem State.setDT_sp (s : State) (v : Byte) : (s.setDT v).sp = s.sp := rfl
@[simp] theorem State.setDT_stack (s : State) (v : Byte) : (s.setDT v).stack = s.stack := rfl
@[simp] theorem State.setDT_keys (s : State) (v : Byte) : (s.setDT v).keys = s.keys := rfl
@[simp] theorem State.setDT_DT (s : State) (v : Byte) : (s.setDT v).DT = v := rfl
@[simp] theorem State.setDT_ST (s : State) (v : Byte) : (s.setDT v).ST = s.ST := rfl
@[simp] theorem State.setDT_fault (s : State) (v : Byte) : (s.setDT v).fault = s.fault := rfl
@[simp] theorem State.setDT_draws (s : State) (v : Byte) : (s.setDT v).draws = s.draws := rfl
@[simp] theorem State.setDT_font (s : State) (v : Byte) : (s.setDT v).font = s.font := rfl

/-! ### setST -/

@[simp] theorem State.setST_pc (s : State) (v : Byte) : (s.setST v).pc = s.pc := rfl
@[simp] theorem State.setST_mem (s : State) (v : Byte) : (s.setST v).mem = s.mem := rfl
@[simp] theorem State.setST_disp (s : State) (v : Byte) : (s.setST v).disp = s.disp := rfl
@[simp] theorem State.setST_V (s : State) (v : Byte) : (s.setST v).V = s.V := rfl
@[simp] theorem State.setST_I (s : State) (v : Byte) : (s.setST v).I = s.I := rfl
@[simp] theorem State.setST_sp (s : State) (v : Byte) : (s.setST v).sp = s.sp := rfl
@[simp] theorem State.setST_stack (s : State) (v : Byte) : (s.setST v).stack = s.stack := rfl
@[simp] theorem State.setST_keys (s : State) (v : Byte) : (s.setST v).keys = s.keys := rfl
@[simp] theorem State.setST_DT (s : State) (v : Byte) : (s.setST v).DT = s.DT := rfl
@[simp] theorem State.setST_ST (s : State) (v : Byte) : (s.setST v).ST = v := rfl
@[simp] theorem State.setST_fault (s : State) (v : Byte) : (s.setST v).fault = s.fault := rfl
@[simp] theorem State.setST_draws (s : State) (v : Byte) : (s.setST v).draws = s.draws := rfl
@[simp] theorem State.setST_font (s : State) (v : Byte) : (s.setST v).font = s.font := rfl

/-! ### setDisp -/

@[simp] theorem State.setDisp_pc (s : State) (d : Display) : (s.setDisp d).pc = s.pc := rfl
@[simp] theorem State.setDisp_mem (s : State) (d : Display) : (s.setDisp d).mem = s.mem := rfl
@[simp] theorem State.setDisp_disp (s : State) (d : Display) : (s.setDisp d).disp = d := rfl
@[simp] theorem State.setDisp_V (s : State) (d : Display) : (s.setDisp d).V = s.V := rfl
@[simp] theorem State.setDisp_I (s : State) (d : Display) : (s.setDisp d).I = s.I := rfl
@[simp] theorem State.setDisp_sp (s : State) (d : Display) : (s.setDisp d).sp = s.sp := rfl
@[simp] theorem State.setDisp_stack (s : State) (d : Display) : (s.setDisp d).stack = s.stack := rfl
@[simp] theorem State.setDisp_keys (s : State) (d : Display) : (s.setDisp d).keys = s.keys := rfl
@[simp] theorem State.setDisp_DT (s : State) (d : Display) : (s.setDisp d).DT = s.DT := rfl
@[simp] theorem State.setDisp_ST (s : State) (d : Display) : (s.setDisp d).ST = s.ST := rfl
@[simp] theorem State.setDisp_fault (s : State) (d : Display) : (s.setDisp d).fault = s.fault := rfl
@[simp] theorem State.setDisp_draws (s : State) (d : Display) : (s.setDisp d).draws = s.draws := rfl
@[simp] theorem State.setDisp_font (s : State) (d : Display) : (s.setDisp d).font = s.font := rfl

/-! ### storeBytes -/

@[simp] theorem State.storeBytes_pc (s : State) (a : Nat) (bs : List Byte) : (s.storeBytes a bs).pc = s.pc := rfl
@[simp] theorem State.storeBytes_mem (s : State) (a : Nat) (bs : List Byte) : (s.storeBytes a bs).mem = s.mem.writeBytes s.font a bs := rfl
@[simp] theorem State.storeBytes_disp (s : State) (a : Nat) (bs : List Byte) : (s.storeBytes a bs).disp = s.disp := rfl
@[simp] theorem State.storeBytes_V (s : State) (a : Nat) (bs : List Byte) : (s.storeBytes a bs).V = s.V := rfl
@[simp] theorem State.storeBytes_I (s : State) (a : Nat) (bs : List Byte) : (s.storeBytes a bs).I = s.I := rfl
@[simp] theorem State.storeBytes_sp (s : State) (a : Nat) (bs : List Byte) : (s.storeBytes a bs).sp = s.sp := rfl
@[simp] theorem State.storeBytes_stack (s : State) (a : Nat) (bs : List Byte) : (s.storeBytes a bs).stack = s.stack := rfl
@[simp] theorem State.storeBytes_keys (s : State) (a : Nat) (bs : List Byte) : (s.storeBytes a bs).keys = s.keys := rfl
@[simp] theorem State.storeBytes_DT (s : State) (a : Nat) (bs : List Byte) : (s.storeBytes a bs).DT = s.DT := rfl
@[simp] theorem State.storeBytes_ST (s : State) (a : Nat) (bs : List Byte) : (s.storeBytes a bs).ST = s.ST := rfl
@[simp] theorem State.storeBytes_fault (s : State) (a : Nat) (bs : List Byte) : (s.storeBytes a bs).fault = s.fault := rfl
@[simp] theorem State.storeBytes_draws (s : State) (a : Nat) (bs : List Byte) : (s.storeBytes a bs).draws = s.draws := rfl
@[simp] theorem State.storeBytes_font (s : State) (a : Nat) (bs : List Byte) : (s.storeBytes a bs).font = s.font := rfl

/-! ### raise -/

@[simp] theorem State.raise_pc (s : State) (c : Cause) (a op : Word16) : (s.raise c a op).pc = s.pc := rfl
@[simp] theorem State.raise_mem (s : State) (c : Cause) (a op : Word16) : (s.raise c a op).mem = s.mem := rfl
@[simp] theorem State.raise_disp (s : State) (c : Cause) (a op : Word16) : (s.raise c a op).disp = s.disp := rfl
@[simp] theorem State.raise_V (s : State) (c : Cause) (a op : Word16) : (s.raise c a op).V = s.V := rfl
@[simp] theorem State.raise_I (s : State) (c : Cause) (a op : Word16) : (s.raise c a op).I = s.I := rfl
@[simp] theorem State.raise_sp (s : State) (c : Cause) (a op : Word16) : (s.raise c a op).sp = s.sp := rfl
@[simp] theorem State.raise_stack (s : State) (c : Cause) (a op : Word16) : (s.raise c a op).stack = s.stack := rfl
@[simp] theorem State.raise_keys (s : State) (c : Cause) (a op : Word16) : (s.raise c a op).keys = s.keys := rfl
@[simp] theorem State.raise_DT (s : State) (c : Cause) (a op : Word16) : (s.raise c a op).DT = s.DT := rfl
@[simp] theorem State.raise_ST (s : State) (c : Cause) (a op : Word16) : (s.raise c a op).ST = s.ST := rfl
@[simp] theorem State.raise_fault (s : State) (c : Cause) (a op : Word16) : (s.raise c a op).fault = some ⟨c, a, op⟩ := rfl
@[simp] theorem State.raise_draws (s : State) (c : Cause) (a op : Word16) : (s.raise c a op).draws = s.draws := rfl
@[simp] theorem State.raise_font (s : State) (c : Cause) (a op : Word16) : (s.raise c a op).font = s.font := rfl

/-! ### advance -/

@[simp] theorem State.advance_pc (s : State) : s.advance.pc = s.pc + 2#16 := rfl
@[simp] theorem State.advance_mem (s : State) : s.advance.mem = s.mem := rfl
@[simp] theorem State.advance_disp (s : State) : s.advance.disp = s.disp := rfl
@[simp] theorem State.advance_V (s : State) : s.advance.V = s.V := rfl
@[simp] theorem State.advance_I (s : State) : s.advance.I = s.I := rfl
@[simp] theorem State.advance_sp (s : State) : s.advance.sp = s.sp := rfl
@[simp] theorem State.advance_stack (s : State) : s.advance.stack = s.stack := rfl
@[simp] theorem State.advance_keys (s : State) : s.advance.keys = s.keys := rfl
@[simp] theorem State.advance_DT (s : State) : s.advance.DT = s.DT := rfl
@[simp] theorem State.advance_ST (s : State) : s.advance.ST = s.ST := rfl
@[simp] theorem State.advance_fault (s : State) : s.advance.fault = s.fault := rfl
@[simp] theorem State.advance_draws (s : State) : s.advance.draws = s.draws := rfl
@[simp] theorem State.advance_font (s : State) : s.advance.font = s.font := rfl

/-! ### loadRegsUpTo -/

@[simp] theorem State.loadRegsUpTo_pc (s : State) (x : Reg) : (s.loadRegsUpTo x).pc = s.pc := by
  simp only [State.loadRegsUpTo]
@[simp] theorem State.loadRegsUpTo_mem (s : State) (x : Reg) : (s.loadRegsUpTo x).mem = s.mem := by
  simp only [State.loadRegsUpTo]
@[simp] theorem State.loadRegsUpTo_disp (s : State) (x : Reg) : (s.loadRegsUpTo x).disp = s.disp := by
  simp only [State.loadRegsUpTo]
@[simp] theorem State.loadRegsUpTo_I (s : State) (x : Reg) : (s.loadRegsUpTo x).I = s.I := by
  simp only [State.loadRegsUpTo]
@[simp] theorem State.loadRegsUpTo_sp (s : State) (x : Reg) : (s.loadRegsUpTo x).sp = s.sp := by
  simp only [State.loadRegsUpTo]
@[simp] theorem State.loadRegsUpTo_stack (s : State) (x : Reg) : (s.loadRegsUpTo x).stack = s.stack := by
  simp only [State.loadRegsUpTo]
@[simp] theorem State.loadRegsUpTo_keys (s : State) (x : Reg) : (s.loadRegsUpTo x).keys = s.keys := by
  simp only [State.loadRegsUpTo]
@[simp] theorem State.loadRegsUpTo_DT (s : State) (x : Reg) : (s.loadRegsUpTo x).DT = s.DT := by
  simp only [State.loadRegsUpTo]
@[simp] theorem State.loadRegsUpTo_ST (s : State) (x : Reg) : (s.loadRegsUpTo x).ST = s.ST := by
  simp only [State.loadRegsUpTo]
@[simp] theorem State.loadRegsUpTo_fault (s : State) (x : Reg) : (s.loadRegsUpTo x).fault = s.fault := by
  simp only [State.loadRegsUpTo]
@[simp] theorem State.loadRegsUpTo_draws (s : State) (x : Reg) : (s.loadRegsUpTo x).draws = s.draws := by
  simp only [State.loadRegsUpTo]
@[simp] theorem State.loadRegsUpTo_font (s : State) (x : Reg) : (s.loadRegsUpTo x).font = s.font := by
  simp only [State.loadRegsUpTo]

/-! ### setResultAndFlag -/

@[simp] theorem State.setResultAndFlag_pc (s : State) (x : Reg) (v : Byte) (f : Bool) : (s.setResultAndFlag x v f).pc = s.pc := rfl
@[simp] theorem State.setResultAndFlag_mem (s : State) (x : Reg) (v : Byte) (f : Bool) : (s.setResultAndFlag x v f).mem = s.mem := rfl
@[simp] theorem State.setResultAndFlag_disp (s : State) (x : Reg) (v : Byte) (f : Bool) : (s.setResultAndFlag x v f).disp = s.disp := rfl
@[simp] theorem State.setResultAndFlag_I (s : State) (x : Reg) (v : Byte) (f : Bool) : (s.setResultAndFlag x v f).I = s.I := rfl
@[simp] theorem State.setResultAndFlag_sp (s : State) (x : Reg) (v : Byte) (f : Bool) : (s.setResultAndFlag x v f).sp = s.sp := rfl
@[simp] theorem State.setResultAndFlag_stack (s : State) (x : Reg) (v : Byte) (f : Bool) : (s.setResultAndFlag x v f).stack = s.stack := rfl
@[simp] theorem State.setResultAndFlag_keys (s : State) (x : Reg) (v : Byte) (f : Bool) : (s.setResultAndFlag x v f).keys = s.keys := rfl
@[simp] theorem State.setResultAndFlag_DT (s : State) (x : Reg) (v : Byte) (f : Bool) : (s.setResultAndFlag x v f).DT = s.DT := rfl
@[simp] theorem State.setResultAndFlag_ST (s : State) (x : Reg) (v : Byte) (f : Bool) : (s.setResultAndFlag x v f).ST = s.ST := rfl
@[simp] theorem State.setResultAndFlag_fault (s : State) (x : Reg) (v : Byte) (f : Bool) : (s.setResultAndFlag x v f).fault = s.fault := rfl
@[simp] theorem State.setResultAndFlag_draws (s : State) (x : Reg) (v : Byte) (f : Bool) : (s.setResultAndFlag x v f).draws = s.draws := rfl
@[simp] theorem State.setResultAndFlag_font (s : State) (x : Reg) (v : Byte) (f : Bool) : (s.setResultAndFlag x v f).font = s.font := rfl

/-! ### takeDraw -/

@[simp] theorem State.takeDraw_pc (s : State) (x : Reg) (nn r : Byte) : (s.takeDraw x nn r).pc = s.pc := rfl
@[simp] theorem State.takeDraw_mem (s : State) (x : Reg) (nn r : Byte) : (s.takeDraw x nn r).mem = s.mem := rfl
@[simp] theorem State.takeDraw_disp (s : State) (x : Reg) (nn r : Byte) : (s.takeDraw x nn r).disp = s.disp := rfl
@[simp] theorem State.takeDraw_I (s : State) (x : Reg) (nn r : Byte) : (s.takeDraw x nn r).I = s.I := rfl
@[simp] theorem State.takeDraw_sp (s : State) (x : Reg) (nn r : Byte) : (s.takeDraw x nn r).sp = s.sp := rfl
@[simp] theorem State.takeDraw_stack (s : State) (x : Reg) (nn r : Byte) : (s.takeDraw x nn r).stack = s.stack := rfl
@[simp] theorem State.takeDraw_keys (s : State) (x : Reg) (nn r : Byte) : (s.takeDraw x nn r).keys = s.keys := rfl
@[simp] theorem State.takeDraw_DT (s : State) (x : Reg) (nn r : Byte) : (s.takeDraw x nn r).DT = s.DT := rfl
@[simp] theorem State.takeDraw_ST (s : State) (x : Reg) (nn r : Byte) : (s.takeDraw x nn r).ST = s.ST := rfl
@[simp] theorem State.takeDraw_fault (s : State) (x : Reg) (nn r : Byte) : (s.takeDraw x nn r).fault = s.fault := rfl
@[simp] theorem State.takeDraw_draws (s : State) (x : Reg) (nn r : Byte) : (s.takeDraw x nn r).draws = s.draws + 1 := rfl
@[simp] theorem State.takeDraw_font (s : State) (x : Reg) (nn r : Byte) : (s.takeDraw x nn r).font = s.font := rfl

/-! ### Registers after an update -/

@[simp] theorem State.reg_setReg_same (s : State) (r : Reg) (v : Byte) : (s.setReg r v).reg r = v := by
  simp [State.reg, State.setReg, Vector.get_eq_getElem]

theorem State.reg_setReg (s : State) (r q : Reg) (v : Byte) :
    (s.setReg r v).reg q = if q = r then v else s.reg q := by
  by_cases h : q = r
  · subst h; simp
  · have h' : r.val ≠ q.val := fun e => h (Fin.ext e.symm)
    simp only [h, if_false, State.reg, State.setReg, Vector.get_eq_getElem]
    exact Vector.getElem_set_ne _ _ h'

theorem State.reg_setReg_of_ne (s : State) {r q : Reg} (v : Byte) (h : q ≠ r) : (s.setReg r v).reg q = s.reg q := by
  simp [State.reg_setReg, h]

theorem State.reg_setResultAndFlag (s : State) (x q : Reg) (v : Byte) (f : Bool) :
    (s.setResultAndFlag x v f).reg q = if q = vf then flagByte f else if q = x then v else s.reg q := by
  simp [State.setResultAndFlag, State.reg_setReg]

theorem State.reg_loadRegsUpTo (s : State) (x q : Reg) :
    (s.loadRegsUpTo x).reg q = if q ≤ x then s.readMem (s.dataAddr q.val) else s.reg q := by
  simp [State.reg, State.loadRegsUpTo, Vector.get_eq_getElem]

theorem State.reg_takeDraw (s : State) (x q : Reg) (nn r : Byte) :
    (s.takeDraw x nn r).reg q = if q = x then r &&& nn else s.reg q :=
  State.reg_setReg s x q (r &&& nn)

@[simp] theorem State.reg_setPc (s : State) (v : Word16) (q : Reg) : (s.setPc v).reg q = s.reg q := rfl
@[simp] theorem State.reg_setI (s : State) (v : Word16) (q : Reg) : (s.setI v).reg q = s.reg q := rfl
@[simp] theorem State.reg_setDT (s : State) (v : Byte) (q : Reg) : (s.setDT v).reg q = s.reg q := rfl
@[simp] theorem State.reg_setST (s : State) (v : Byte) (q : Reg) : (s.setST v).reg q = s.reg q := rfl
@[simp] theorem State.reg_setDisp (s : State) (d : Display) (q : Reg) : (s.setDisp d).reg q = s.reg q := rfl
@[simp] theorem State.reg_storeBytes (s : State) (a : Nat) (bs : List Byte) (q : Reg) : (s.storeBytes a bs).reg q = s.reg q := rfl
@[simp] theorem State.reg_raise (s : State) (c : Cause) (a op : Word16) (q : Reg) : (s.raise c a op).reg q = s.reg q := rfl
@[simp] theorem State.reg_advance (s : State) (q : Reg) : s.advance.reg q = s.reg q := rfl

/-! ### Memory, pixels, slots and keys after an update that does not write them -/

@[simp] theorem State.readMem_setReg (s : State) (r : Reg) (v : Byte) (k : Nat) : (s.setReg r v).readMem k = s.readMem k := rfl
@[simp] theorem State.pixel_setReg (s : State) (r : Reg) (v : Byte) (k : Nat) : (s.setReg r v).pixel k = s.pixel k := rfl
@[simp] theorem State.slot_setReg (s : State) (r : Reg) (v : Byte) (k : Fin 16) : (s.setReg r v).slot k = s.slot k := rfl
@[simp] theorem State.key_setReg (s : State) (r : Reg) (v : Byte) (k : Fin 16) : (s.setReg r v).key k = s.key k := rfl
@[simp] theorem State.readMem_setPc (s : State) (v : Word16) (k : Nat) : (s.setPc v).readMem k = s.readMem k := rfl
@[simp] theorem State.pixel_setPc (s : State) (v : Word16) (k : Nat) : (s.setPc v).pixel k = s.pixel k := rfl
@[simp] theorem State.slot_setPc (s : State) (v : Word16) (k : Fin 16) : (s.setPc v).slot k = s.slot k := rfl
@[simp] theorem State.key_setPc (s : State) (v : Word16) (k : Fin 16) : (s.setPc v).key k = s.key k := rfl
@[simp] theorem State.readMem_setI (s : State) (v : Word16) (k : Nat) : (s.setI v).readMem k = s.readMem k := rfl
@[simp] theorem State.pixel_setI (s : State) (v : Word16) (k : Nat) : (s.setI v).pixel k = s.pixel k := rfl
@[simp] theorem State.slot_setI (s : State) (v : Word16) (k : Fin 16) : (s.setI v).slot k = s.slot k := rfl
@[simp] theorem State.key_setI (s : State) (v : Word16) (k : Fin 16) : (s.setI v).key k = s.key k := rfl
@[simp] theorem State.readMem_setDT (s : State) (v : Byte) (k : Nat) : (s.setDT v).readMem k = s.readMem k := rfl
@[simp] theorem State.pixel_setDT (s : State) (v : Byte) (k : Nat) : (s.setDT v).pixel k = s.pixel k := rfl
@[simp] theorem State.slot_setDT (s : State) (v : Byte) (k : Fin 16) : (s.setDT v).slot k = s.slot k := rfl
@[simp] theorem State.key_setDT (s : State) (v : Byte) (k : Fin 16) : (s.setDT v).key k = s.key k := rfl
@[simp] theorem State.readMem_setST (s : State) (v : Byte) (k : Nat) : (s.setST v).readMem k = s.readMem k := rfl
@[simp] theorem State.pixel_setST (s : State) (v : Byte) (k : Nat) : (s.setST v).pixel k = s.pixel k := rfl
@[simp] theorem State.slot_setST (s : State) (v : Byte) (k : Fin 16) : (s.setST v).slot k = s.slot k := rfl
@[simp] theorem State.key_setST (s : State) (v : Byte) (k : Fin 16) : (s.setST v).key k = s.key k := rfl
@[simp] theorem State.readMem_setDisp (s : State) (d : Display) (k : Nat) : (s.setDisp d).readMem k = s.readMem k := rfl
@[simp] theorem State.slot_setDisp (s : State) (d : Display) (k : Fin 16) : (s.setDisp d).slot k = s.slot k := rfl
@[simp] theorem State.key_setDisp (s : State) (d : Display) (k : Fin 16) : (s.setDisp d).key k = s.key k := rfl
@[simp] theorem State.pixel_storeBytes (s : State) (a : Nat) (bs : List Byte) (k : Nat) : (s.storeBytes a bs).pixel k = s.pixel k := rfl
@[simp] theorem State.slot_storeBytes (s : State) (a : Nat) (bs : List Byte) (k : Fin 16) : (s.storeBytes a bs).slot k = s.slot k := rfl
@[simp] theorem State.key_storeBytes (s : State) (a : Nat) (bs : List Byte) (k : Fin 16) : (s.storeBytes a bs).key k = s.key k := rfl
@[simp] theorem State.readMem_raise (s : State) (c : Cause) (a op : Word16) (k : Nat) : (s.raise c a op).readMem k = s.readMem k := rfl
@[simp] theorem State.pixel_raise (s : State) (c : Cause) (a op : Word16) (k : Nat) : (s.raise c a op).pixel k = s.pixel k := rfl
@[simp] theorem State.slot_raise (s : State) (c : Cause) (a op : Word16) (k : Fin 16) : (s.raise c a op).slot k = s.slot k := rfl
@[simp] theorem State.key_raise (s : State) (c : Cause) (a op : Word16) (k : Fin 16) : (s.raise c a op).key k = s.key k := rfl
@[simp] theorem State.readMem_advance (s : State) (k : Nat) : s.advance.readMem k = s.readMem k := rfl
@[simp] theorem State.pixel_advance (s : State) (k : Nat) : s.advance.pixel k = s.pixel k := rfl
@[simp] theorem State.slot_advance (s : State) (k : Fin 16) : s.advance.slot k = s.slot k := rfl
@[simp] theorem State.key_advance (s : State) (k : Fin 16) : s.advance.key k = s.key k := rfl
@[simp] theorem State.readMem_loadRegsUpTo (s : State) (x : Reg) (k : Nat) : (s.loadRegsUpTo x).readMem k = s.readMem k := by
  simp only [State.readMem, State.loadRegsUpTo]
@[simp] theorem State.pixel_loadRegsUpTo (s : State) (x : Reg) (k : Nat) : (s.loadRegsUpTo x).pixel k = s.pixel k := by
  simp only [State.pixel, State.loadRegsUpTo]
@[simp] theorem State.slot_loadRegsUpTo (s : State) (x : Reg) (k : Fin 16) : (s.loadRegsUpTo x).slot k = s.slot k := by
  simp only [State.slot, State.loadRegsUpTo]
@[simp] theorem State.key_loadRegsUpTo (s : State) (x : Reg) (k : Fin 16) : (s.loadRegsUpTo x).key k = s.key k := by
  simp only [State.key, State.loadRegsUpTo]
@[simp] theorem State.readMem_setResultAndFlag (s : State) (x : Reg) (v : Byte) (f : Bool) (k : Nat) : (s.setResultAndFlag x v f).readMem k = s.readMem k := rfl
@[simp] theorem State.pixel_setResultAndFlag (s : State) (x : Reg) (v : Byte) (f : Bool) (k : Nat) : (s.setResultAndFlag x v f).pixel k = s.pixel k := rfl
@[simp] theorem State.slot_setResultAndFlag (s : State) (x : Reg) (v : Byte) (f : Bool) (k : Fin 16) : (s.setResultAndFlag x v f).slot k = s.slot k := rfl
@[simp] theorem State.key_setResultAndFlag (s : State) (x : Reg) (v : Byte) (f : Bool) (k : Fin 16) : (s.setResultAndFlag x v f).key k = s.key k := rfl
@[simp] theorem State.readMem_takeDraw (s : State) (x : Reg) (nn r : Byte) (k : Nat) : (s.takeDraw x nn r).readMem k = s.readMem k := rfl
@[simp] theorem State.pixel_takeDraw (s : State) (x : Reg) (nn r : Byte) (k : Nat) : (s.takeDraw x nn r).pixel k = s.pixel k := rfl
@[simp] theorem State.slot_takeDraw (s : State) (x : Reg) (nn r : Byte) (k : Fin 16) : (s.takeDraw x nn r).slot k = s.slot k := rfl
@[simp] theorem State.key_takeDraw (s : State) (x : Reg) (nn r : Byte) (k : Fin 16) : (s.takeDraw x nn r).key k = s.key k := rfl

end Sys2Proof.Machine
end

