-- ==== Sys2Proof/Laws/Machine.lean ====
section
/-! SUPPORT. One lemma per shared operation: the call stack, the operand forms, the flags, taking a fault, and what
a step can come to. -/

namespace Sys2Proof.Machine

/-! ### Call stack -/

/-- A push onto a stack with a free slot k. -/
theorem State.push_of_slot {s : State} {k : Fin 16} (h : s.sp.val = k.val) (v : Word16) :
    s.push v = some { s with stack := s.stack.set k.val v k.isLt, sp := ⟨k.val + 1, Nat.succ_lt_succ k.isLt⟩ } := by
  simp [State.push, h, Config.stackDepth]

/-- A push onto a full stack. -/
theorem State.push_of_full {s : State} (h : s.sp.val = 16) (v : Word16) : s.push v = none := by
  have : ¬ s.sp.val < Config.stackDepth := by simp [Config.stackDepth, h]
  simp only [State.push, this, dif_neg, not_false_iff]

/-- A pop from a stack whose top slot is k. -/
theorem State.pop_of_slot {s : State} {k : Fin 16} (h : s.sp.val = k.val + 1) :
    s.pop = some (s.slot k, { s with sp := ⟨k.val, Nat.lt_succ_of_lt k.isLt⟩ }) := by
  have h0 : 0 < s.sp.val := by omega
  have hk : s.sp.val - 1 = k.val := by omega
  simp only [State.pop, h0, dif_pos, hk, State.slot]

/-- A pop from an empty stack. -/
theorem State.pop_of_empty {s : State} (h : s.sp.val = 0) : s.pop = none := by
  simp [State.pop, h]

/-- The stack is empty, or it has a top slot; it is full, or it has a free one. -/
theorem State.sp_cases (s : State) :
    (s.sp.val = 0 ∨ ∃ k : Fin 16, s.sp.val = k.val + 1) ∧ (s.sp.val = 16 ∨ ∃ k : Fin 16, s.sp.val = k.val) := by
  have := s.sp.isLt
  refine ⟨?_, ?_⟩
  · by_cases h : s.sp.val = 0
    · exact .inl h
    · exact .inr ⟨⟨s.sp.val - 1, by omega⟩, by simp; omega⟩
  · by_cases h : s.sp.val = 16
    · exact .inl h
    · exact .inr ⟨⟨s.sp.val, by omega⟩, rfl⟩

/-! ### Operand forms -/

@[simp] theorem toNat_addrOperand (nnn : BitVec 12) : (addrOperand nnn).toNat = nnn.toNat := by
  have := nnn.isLt
  simp only [addrOperand, BitVec.toNat_setWidth]
  omega

@[simp] theorem toNat_zext16 (v : Byte) : (zext16 v).toNat = v.toNat := by
  have := v.isLt
  simp only [zext16, BitVec.toNat_setWidth]
  omega

theorem State.dataAddr_eq (s : State) (k : Nat) : s.dataAddr k = s.I.toNat + k := rfl

theorem State.dataInRange_iff (s : State) (count : Nat) :
    s.dataInRange count = true ↔ count = 0 ∨ s.I.toNat + count - 1 ≤ 0xFFF := decide_eq_true_iff

theorem Memory.length_readBytes (font : Font) (m : Memory) (a count : Nat) : (m.readBytes font a count).length = count := by
  simp [Memory.readBytes]

theorem Memory.getD_readBytes (font : Font) (m : Memory) (a count k : Nat) (h : k < count) (d : Byte) :
    (m.readBytes font a count).getD k d = m.read font (a + k) := by
  simp [Memory.readBytes, h]

theorem State.length_regsUpTo (s : State) (x : Reg) : (s.regsUpTo x).length = x.val + 1 := by
  have := x.isLt
  simp only [State.regsUpTo, List.length_take, Vector.length_toList]
  omega

theorem State.getD_regsUpTo (s : State) (x k : Reg) (h : k ≤ x) (d : Byte) :
    (s.regsUpTo x).getD k.val d = s.reg k := by
  have hk : k.val < x.val + 1 := Nat.lt_succ_of_le h
  simp [State.regsUpTo, State.reg, List.getD_eq_getElem?_getD, hk, Vector.get_eq_getElem]

/-- The key operand is the cell k when V[x] is k. -/
theorem State.keyOperand_of_eq {s : State} {x : Reg} {k : Fin 16} (h : (s.reg x).toNat = k.val) :
    s.keyOperand x = some (s.key k) := by
  simp [State.keyOperand, h, Config.numKeys]

/-- There is no key operand when V[x] is above 15. -/
theorem State.keyOperand_of_gt {s : State} {x : Reg} (h : (s.reg x).toNat > 15) : s.keyOperand x = none := by
  have : ¬ (s.reg x).toNat < Config.numKeys := by simp only [Config.numKeys]; omega
  simp only [State.keyOperand, this, dif_neg, not_false_iff]

/-- The first pressed key is a pressed key with none pressed below it. -/
theorem State.firstPressed_eq_some {s : State} {k : Fin 16} :
    s.firstPressed = some k ↔ s.key k = true ∧ ∀ j < k, s.key j = false := by
  unfold State.firstPressed
  rw [List.find?_eq_some_iff_getElem]
  constructor
  · rintro ⟨hp, i, hi, he, hj⟩
    simp only [List.getElem_finRange] at he hj
    have hik : i = k.val := by simpa using congrArg Fin.val he
    refine ⟨hp, fun j hjk => ?_⟩
    have := hj j.val (by omega)
    simpa using this
  · rintro ⟨hp, hj⟩
    refine ⟨hp, k.val, by simp, by simp, fun j hjk => ?_⟩
    have hlt : j < 16 := by omega
    have := hj ⟨j, hlt⟩ hjk
    simpa using this

theorem State.firstPressed_eq_none {s : State} : s.firstPressed = none ↔ ∀ k, s.key k = false := by
  simp [State.firstPressed, List.find?_eq_none]

/-! ### Results and flags as numbers -/

theorem toNat_sum8 (a b : Byte) : (sum8 a b).toNat = (a.toNat + b.toNat) % 256 := by
  simp [sum8]

theorem toNat_diff8 (a b : Byte) : (diff8 a b).toNat = (a.toNat + 256 - b.toNat) % 256 := by
  simp [diff8]

theorem toNat_shr1 (a : Byte) : (shr1 a).toNat = a.toNat / 2 := by
  simp [shr1, Nat.shiftRight_succ]

theorem toNat_shl1 (a : Byte) : (shl1 a).toNat = a.toNat * 2 % 256 := by
  simp [shl1, Nat.shiftLeft_succ, Nat.mul_comm]

theorem toNat_flagByte (b : Bool) : (flagByte b).toNat = if b then 1 else 0 := by
  cases b <;> rfl

theorem toNat_lowBit (a : Byte) : (flagByte (lowBit a)).toNat = a.toNat % 2 := by
  rw [toNat_flagByte]
  simp only [lowBit, BitVec.getLsbD, Nat.testBit_zero, decide_eq_true_eq]
  split <;> omega

theorem toNat_highBit (a : Byte) : (flagByte (highBit a)).toNat = a.toNat / 128 := by
  have := a.isLt
  rw [toNat_flagByte]
  simp only [highBit, BitVec.getLsbD, Nat.testBit_eq_decide_div_mod_eq, decide_eq_true_eq]
  split <;> omega

/-! ### Fetch and step -/

/-- The word fetched, as the number of 40_tick_cycle.md R91. -/
theorem State.toNat_fetchWord (s : State) :
    s.fetchWord.toNat = (s.readMem s.pc.toNat).toNat * 256 + (s.readMem (s.pc.toNat + 1)).toNat := by
  have := (s.readMem (s.pc.toNat + 1)).isLt
  have e : s.fetchWord.toNat =
      (s.readMem s.pc.toNat).toNat <<< 8 ||| (s.readMem (s.pc.toNat + 1)).toNat := BitVec.toNat_append _ _
  rw [e, ← Nat.shiftLeft_add_eq_or_of_lt (by omega), Nat.shiftLeft_eq]

theorem State.fetchInRange_iff (s : State) : s.fetchInRange = true ↔ s.pc.toNat ≤ 0xFFE := decide_eq_true_iff

/-- What fetch and decode come to, said once: halted, a fetch fault, an invalid opcode, or an instruction. -/
theorem State.fetchDecode_eq (s : State) :
    s.fetchDecode =
      if s.fault ≠ none then .settled s
      else if s.pc.toNat > 0xFFE then .settled (s.raise .fetchOutOfBounds s.pc 0#16)
      else match decodeWord s.fetchWord with
        | .ok i => .execute i s.advance
        | .error _ => .settled (s.advance.raise .invalidOpcode s.pc s.fetchWord) := by
  unfold State.fetchDecode
  cases hf : s.fault with
  | some r => simp
  | none =>
    by_cases hp : s.pc.toNat ≤ 0xFFE
    · have hp' : ¬ s.pc.toNat > 0xFFE := by omega
      simp only [(State.fetchInRange_iff s).mpr hp, if_true, decode, ne_eq, not_true, if_false, hp']
      have : wordOfBytes (s.readMem s.pc.toNat) (s.readMem (s.pc.toNat + 1)) = s.fetchWord := rfl
      rw [this]
      cases decodeWord s.fetchWord <;> rfl
    · have hn : s.fetchInRange = false := by
        simpa using fun h => hp ((State.fetchInRange_iff s).mp h)
      have hp' : s.pc.toNat > 0xFFE := by omega
      simp [hn, hp']

/-- What a step can do, said once. -/
theorem step_eq (s : State) :
    step s =
      if s.fault ≠ none then .next s
      else if s.pc.toNat > 0xFFE then .next (s.raise .fetchOutOfBounds s.pc 0#16)
      else match decodeWord s.fetchWord with
        | .ok i => exec i s.advance
        | .error _ => .next (s.advance.raise .invalidOpcode s.pc s.fetchWord) := by
  unfold step
  rw [State.fetchDecode_eq]
  by_cases hf : s.fault = none
  · by_cases hp : s.pc.toNat > 0xFFE
    · simp [hf, hp]
    · cases hd : decodeWord s.fetchWord <;> simp [hf, hp]
  · simp [hf]

theorem step_of_halted {s : State} (h : s.Halted) : step s = .next s := by
  rw [step_eq, if_pos h]

theorem step_of_fetchFault {s : State} (h : s.Running) (hp : s.pc.toNat > 0xFFE) :
    step s = .next (s.raise .fetchOutOfBounds s.pc 0#16) := by
  rw [step_eq, if_neg (by simp [h]), if_pos hp]

theorem step_of_decode {s : State} (h : s.Running) (hp : s.pc.toNat ≤ 0xFFE) {i : Instr}
    (hd : decodeWord s.fetchWord = .ok i) : step s = exec i s.advance := by
  rw [step_eq, if_neg (by simp [h]), if_neg (by omega), hd]

theorem step_of_invalid {s : State} (h : s.Running) (hp : s.pc.toNat ≤ 0xFFE) {r : Reject}
    (hd : decodeWord s.fetchWord = .error r) :
    step s = .next (s.advance.raise .invalidOpcode s.pc s.fetchWord) := by
  rw [step_eq, if_neg (by simp [h]), if_neg (by omega), hd]

/-- An advance and back: during execute pc is A + 2, so `fetchedFrom` is A. -/
@[simp] theorem State.fetchedFrom_advance (s : State) : s.advance.fetchedFrom = s.pc := by
  simp [State.fetchedFrom]

/-- The word that `withFetchWord` places is the word fetched next, in a running state whose pc fetches. -/
theorem State.fetchWord_placeWord (s : State) (op : Word16) :
    (s.placeWord op).fetchWord = op ∧ (s.placeWord op).Running ∧ (s.placeWord op).pc.toNat ≤ 0xFFE := by
  have hpc : (s.placeWord op).pc.toNat ≤ 0xFFE := by
    by_cases h : s.fetchInRange = true
    · simpa [State.placeWord, h] using (State.fetchInRange_iff s).mp h
    · simp [State.placeWord, h, Config.startAddr]
  refine ⟨?_, rfl, hpc⟩
  have h0 : (s.placeWord op).readMem (s.placeWord op).pc.toNat = hiByte op := by
    simp only [State.placeWord, State.readMem_storeBytes, State.storeBytes_pc]
    simp [wordBytes]
  have h1 : (s.placeWord op).readMem ((s.placeWord op).pc.toNat + 1) = loByte op := by
    simp only [State.placeWord, State.readMem_storeBytes, State.storeBytes_pc]
    simp [wordBytes]
  rw [State.fetchWord, h0, h1, wordOfBytes_wordBytes]

/-- The step after `withFetchWord` runs exactly the instruction of the word. -/
theorem step_withFetchWord (s : State) (nbits w : Nat) {i : Instr} (h : decodeWord (tableWord nbits w) = .ok i) :
    step (s.withFetchWord nbits w) = exec i (s.withFetchWord nbits w).advance := by
  obtain ⟨hw, hr, hp⟩ := State.fetchWord_placeWord s (tableWord nbits w)
  exact step_of_decode hr hp (hw.symm ▸ h)

/-- SHR and SHL behave alike for every y that is encoded (30_encoding.md R74, R82). -/
theorem exec_shr_ignores_y (x y y' : Reg) (s : State) : exec (.shr x y) s = exec (.shr x y') s := rfl

theorem exec_shl_ignores_y (x y y' : Reg) (s : State) : exec (.shl x y) s = exec (.shl x y') s := rfl

end Sys2Proof.Machine
end

