-- ==== Sys2Proof/Laws/Display.lean ====
section
/-! SUPPORT. Drawing a sprite is toggling a list of cells, one after another; over distinct cells the display is
XORed with the set of them, and the collision says whether one was lit (spec/45_display.md R152). -/

namespace Sys2Proof.Machine

/-- The cells of the columns `col` up, `left` of them, of a sprite row with byte `b`, where the bit is set. -/
def columnCells (vx vy : Byte) (row : Nat) (b : Byte) (col : Nat) : Nat → List Nat
  | 0 => []
  | left + 1 =>
    (if b.getLsbD (7 - col) then [spriteCell vx vy row col] else []) ++ columnCells vx vy row b (col + 1) left

/-- The cells of the sprite rows from `row` down, where the bit is set, in drawing order. -/
def rowCells (vx vy : Byte) (row : Nat) : List Byte → List Nat
  | [] => []
  | b :: bs => columnCells vx vy row b 0 8 ++ rowCells vx vy (row + 1) bs

/-- Toggle cells one after another. -/
def Canvas.toggleAll (c : Canvas) (cells : List Nat) : Canvas := cells.foldl Canvas.toggle c

theorem Canvas.toggleAll_append (c : Canvas) (l l' : List Nat) :
    c.toggleAll (l ++ l') = (c.toggleAll l).toggleAll l' := List.foldl_append

theorem Canvas.drawColumns_eq (c : Canvas) (vx vy : Byte) (row : Nat) (b : Byte) (col left : Nat) :
    c.drawColumns vx vy row b col left = c.toggleAll (columnCells vx vy row b col left) := by
  induction left generalizing c col with
  | zero => rfl
  | succ left ih =>
    simp only [Canvas.drawColumns, columnCells, Canvas.toggleAll_append, ih]
    split <;> rfl

theorem Canvas.drawRows_eq (c : Canvas) (vx vy : Byte) (row : Nat) (bs : List Byte) :
    c.drawRows vx vy row bs = c.toggleAll (rowCells vx vy row bs) := by
  induction bs generalizing c row with
  | nil => rfl
  | cons b bs ih =>
    simp only [Canvas.drawRows, rowCells, Canvas.toggleAll_append, ih, Canvas.drawColumns_eq]

theorem mem_columnCells {vx vy : Byte} {row : Nat} {b : Byte} {col left k : Nat} :
    k ∈ columnCells vx vy row b col left ↔
      ∃ j, col ≤ j ∧ j < col + left ∧ b.getLsbD (7 - j) = true ∧ spriteCell vx vy row j = k := by
  induction left generalizing col with
  | zero => simp [columnCells]; omega
  | succ left ih =>
    rw [columnCells, List.mem_append, ih]
    constructor
    · rintro (h | ⟨j, h1, h2, h3⟩)
      · split at h
        · exact ⟨col, le_refl _, by omega, ‹_›, by simpa using (List.mem_singleton.mp h).symm⟩
        · exact absurd h List.not_mem_nil
      · exact ⟨j, by omega, by omega, h3⟩
    · rintro ⟨j, h1, h2, h3, h4⟩
      by_cases e : j = col
      · subst e; exact .inl (by simp [h3, h4])
      · exact .inr ⟨j, by omega, by omega, h3, h4⟩

theorem mem_rowCells {vx vy : Byte} {row : Nat} {bs : List Byte} {k : Nat} :
    k ∈ rowCells vx vy row bs ↔
      ∃ i < bs.length, ∃ j < 8, (bs.getD i 0#8).getLsbD (7 - j) = true ∧ spriteCell vx vy (row + i) j = k := by
  induction bs generalizing row with
  | nil => simp [rowCells]
  | cons b bs ih =>
    rw [rowCells, List.mem_append, mem_columnCells, ih]
    constructor
    · rintro (⟨j, -, h2, h3, h4⟩ | ⟨i, hi, j, hj, h3, h4⟩)
      · exact ⟨0, by simp, j, by omega, by simpa using h3, h4⟩
      · exact ⟨i + 1, by simpa using hi, j, hj, by simpa using h3, by rw [← h4]; congr 1; omega⟩
    · rintro ⟨i, hi, j, hj, h3, h4⟩
      cases i with
      | zero => exact .inl ⟨j, by omega, by omega, by simpa using h3, h4⟩
      | succ i =>
        exact .inr ⟨i, by simpa using hi, j, hj, by simpa using h3, by rw [← h4]; congr 1; omega⟩

theorem getLsbD_twoPow_display {k cell : Nat} (h : cell < 2048) :
    (BitVec.twoPow 2048 cell).getLsbD k = decide (k = cell) := by
  rw [BitVec.getLsbD_twoPow]
  by_cases e : k = cell
  · subst e; simp [h]
  · simp [e, Ne.symm e]

/-- Toggling distinct cells: each is inverted, the others stay, and a lit one is a collision. -/
theorem Canvas.toggleAll_spec (c : Canvas) (cells : List Nat) (hd : cells.Nodup) (hlt : ∀ k ∈ cells, k < 2048) :
    (∀ k, (c.toggleAll cells).disp.getLsbD k = (c.disp.getLsbD k ^^ decide (k ∈ cells))) ∧
    ((c.toggleAll cells).collision = (c.collision || cells.any fun k => c.disp.getLsbD k)) := by
  induction cells generalizing c with
  | nil => simp [Canvas.toggleAll]
  | cons a l ih =>
    obtain ⟨ha, hl⟩ := List.nodup_cons.mp hd
    have hlt' : ∀ k ∈ l, k < 2048 := fun k hk => hlt k (List.mem_cons_of_mem _ hk)
    obtain ⟨h1, h2⟩ := ih (c.toggle a) hl hlt'
    have e : c.toggleAll (a :: l) = (c.toggle a).toggleAll l := rfl
    have hbit : ∀ k, (c.toggle a).disp.getLsbD k = (c.disp.getLsbD k ^^ decide (k = a)) := by
      intro k
      simp only [Canvas.toggle, BitVec.getLsbD_xor, getLsbD_twoPow_display (hlt a List.mem_cons_self)]
    refine ⟨fun k => ?_, ?_⟩
    · rw [e, h1, hbit]
      by_cases hk : k = a
      · subst hk; simp [ha]
      · simp [hk]
    · rw [e, h2]
      have : (l.any fun k => (c.toggle a).disp.getLsbD k) = l.any fun k => c.disp.getLsbD k := by
        apply Bool.eq_iff_iff.mpr
        simp only [List.any_eq_true]
        refine exists_congr fun k => and_congr_right fun hk => ?_
        have : k ≠ a := fun e => ha (e ▸ hk)
        simp [hbit, this]
      rw [this]
      simp [Canvas.toggle, Bool.or_assoc]

end Sys2Proof.Machine
end

