-- ==== Sys2Proof/Laws/PerInstr.lean ====
section
/-! SUPPORT. Statements for all instructions, one lemma per constructor. The family MatchesRow: the word of an
instruction is its row's match value in every bit of its row's mask (spec/30_encoding.md R75). -/

namespace Sys2Proof.Laws.MatchesRow

/-- Some row of the table has the instruction's mnemonic and its mask, and matches its word. -/
def Statement (i : Instr) : Prop :=
  ∃ row ∈ opcodeTable, row.mnemonic = i.mnemonic ∧ row.mask = i.mask ∧ row.matchesWord (encode i) = true

/-- Bits 15 to 12 of a word, under the mask of format A and its like. -/
theorem mask_F000 (op : Word16) : op &&& 0xF000#16 = formatA (nib3 op) 0#12 := by
  apply BitVec.eq_of_getLsbD_eq
  intro i hi
  simp only [formatA, nib3, BitVec.getLsbD_and, BitVec.getLsbD_append, BitVec.getLsbD_extractLsb']
  interval_cases i <;> simp

/-- Bits 15 to 12 and 3 to 0 of a word, under the mask of format XY. -/
theorem mask_F00F (op : Word16) : op &&& 0xF00F#16 = formatXY (nib3 op) 0 0 (nib0 op) := by
  apply BitVec.eq_of_getLsbD_eq
  intro i hi
  simp only [formatXY, nib3, nib0, BitVec.getLsbD_and, BitVec.getLsbD_append, BitVec.getLsbD_extractLsb']
  interval_cases i <;> simp

/-- Bits 15 to 12 and 7 to 0 of a word, under the mask of format X. -/
theorem mask_F0FF (op : Word16) : op &&& 0xF0FF#16 = formatXI (nib3 op) 0 (nnField op) := by
  apply BitVec.eq_of_getLsbD_eq
  intro i hi
  simp only [formatXI, nib3, nnField, BitVec.getLsbD_and, BitVec.getLsbD_append, BitVec.getLsbD_extractLsb']
  interval_cases i <;> simp

theorem nop : Statement .nop :=
  ⟨⟨"NOP", 0xFFFF#16, 0x0000#16⟩, by decide, rfl, rfl, by decide⟩

theorem cls : Statement .cls :=
  ⟨⟨"CLS", 0xFFFF#16, 0x00E0#16⟩, by decide, rfl, rfl, by decide⟩

theorem ret : Statement .ret :=
  ⟨⟨"RET", 0xFFFF#16, 0x00EE#16⟩, by decide, rfl, rfl, by decide⟩

theorem jp (nnn : BitVec 12) : Statement (.jp nnn) :=
  ⟨⟨"JP", 0xF000#16, 0x1000#16⟩, by decide, rfl, rfl, by
    simp only [TableRow.matchesWord, encode, mask_F000, nib3_formatA]; decide⟩

theorem call (nnn : BitVec 12) : Statement (.call nnn) :=
  ⟨⟨"CALL", 0xF000#16, 0x2000#16⟩, by decide, rfl, rfl, by
    simp only [TableRow.matchesWord, encode, mask_F000, nib3_formatA]; decide⟩

theorem sei (x : Reg) (nn : Byte) : Statement (.sei x nn) :=
  ⟨⟨"SEI", 0xF000#16, 0x3000#16⟩, by decide, rfl, rfl, by
    simp only [TableRow.matchesWord, encode, mask_F000, nib3_formatXI]; decide⟩

theorem snei (x : Reg) (nn : Byte) : Statement (.snei x nn) :=
  ⟨⟨"SNEI", 0xF000#16, 0x4000#16⟩, by decide, rfl, rfl, by
    simp only [TableRow.matchesWord, encode, mask_F000, nib3_formatXI]; decide⟩

theorem ser (x : Reg) (y : Reg) : Statement (.ser x y) :=
  ⟨⟨"SER", 0xF00F#16, 0x5000#16⟩, by decide, rfl, rfl, by
    simp only [TableRow.matchesWord, encode, mask_F00F, nib3_formatXY, nib0_formatXY]; decide⟩

theorem ldi (x : Reg) (nn : Byte) : Statement (.ldi x nn) :=
  ⟨⟨"LDI", 0xF000#16, 0x6000#16⟩, by decide, rfl, rfl, by
    simp only [TableRow.matchesWord, encode, mask_F000, nib3_formatXI]; decide⟩

theorem addi (x : Reg) (nn : Byte) : Statement (.addi x nn) :=
  ⟨⟨"ADDI", 0xF000#16, 0x7000#16⟩, by decide, rfl, rfl, by
    simp only [TableRow.matchesWord, encode, mask_F000, nib3_formatXI]; decide⟩

theorem mov (x : Reg) (y : Reg) : Statement (.mov x y) :=
  ⟨⟨"MOV", 0xF00F#16, 0x8000#16⟩, by decide, rfl, rfl, by
    simp only [TableRow.matchesWord, encode, mask_F00F, nib3_formatXY, nib0_formatXY]; decide⟩

theorem or (x : Reg) (y : Reg) : Statement (.or x y) :=
  ⟨⟨"OR", 0xF00F#16, 0x8001#16⟩, by decide, rfl, rfl, by
    simp only [TableRow.matchesWord, encode, mask_F00F, nib3_formatXY, nib0_formatXY]; decide⟩

theorem and (x : Reg) (y : Reg) : Statement (.and x y) :=
  ⟨⟨"AND", 0xF00F#16, 0x8002#16⟩, by decide, rfl, rfl, by
    simp only [TableRow.matchesWord, encode, mask_F00F, nib3_formatXY, nib0_formatXY]; decide⟩

theorem xor (x : Reg) (y : Reg) : Statement (.xor x y) :=
  ⟨⟨"XOR", 0xF00F#16, 0x8003#16⟩, by decide, rfl, rfl, by
    simp only [TableRow.matchesWord, encode, mask_F00F, nib3_formatXY, nib0_formatXY]; decide⟩

theorem add (x : Reg) (y : Reg) : Statement (.add x y) :=
  ⟨⟨"ADD", 0xF00F#16, 0x8004#16⟩, by decide, rfl, rfl, by
    simp only [TableRow.matchesWord, encode, mask_F00F, nib3_formatXY, nib0_formatXY]; decide⟩

theorem sub (x : Reg) (y : Reg) : Statement (.sub x y) :=
  ⟨⟨"SUB", 0xF00F#16, 0x8005#16⟩, by decide, rfl, rfl, by
    simp only [TableRow.matchesWord, encode, mask_F00F, nib3_formatXY, nib0_formatXY]; decide⟩

theorem shr (x : Reg) (y : Reg) : Statement (.shr x y) :=
  ⟨⟨"SHR", 0xF00F#16, 0x8006#16⟩, by decide, rfl, rfl, by
    simp only [TableRow.matchesWord, encode, mask_F00F, nib3_formatXY, nib0_formatXY]; decide⟩

theorem subn (x : Reg) (y : Reg) : Statement (.subn x y) :=
  ⟨⟨"SUBN", 0xF00F#16, 0x8007#16⟩, by decide, rfl, rfl, by
    simp only [TableRow.matchesWord, encode, mask_F00F, nib3_formatXY, nib0_formatXY]; decide⟩

theorem shl (x : Reg) (y : Reg) : Statement (.shl x y) :=
  ⟨⟨"SHL", 0xF00F#16, 0x800E#16⟩, by decide, rfl, rfl, by
    simp only [TableRow.matchesWord, encode, mask_F00F, nib3_formatXY, nib0_formatXY]; decide⟩

theorem sner (x : Reg) (y : Reg) : Statement (.sner x y) :=
  ⟨⟨"SNER", 0xF00F#16, 0x9000#16⟩, by decide, rfl, rfl, by
    simp only [TableRow.matchesWord, encode, mask_F00F, nib3_formatXY, nib0_formatXY]; decide⟩

theorem ldix (nnn : BitVec 12) : Statement (.ldix nnn) :=
  ⟨⟨"LDIX", 0xF000#16, 0xA000#16⟩, by decide, rfl, rfl, by
    simp only [TableRow.matchesWord, encode, mask_F000, nib3_formatA]; decide⟩

theorem jpv0 (nnn : BitVec 12) : Statement (.jpv0 nnn) :=
  ⟨⟨"JPV0", 0xF000#16, 0xB000#16⟩, by decide, rfl, rfl, by
    simp only [TableRow.matchesWord, encode, mask_F000, nib3_formatA]; decide⟩

theorem rnd (x : Reg) (nn : Byte) : Statement (.rnd x nn) :=
  ⟨⟨"RND", 0xF000#16, 0xC000#16⟩, by decide, rfl, rfl, by
    simp only [TableRow.matchesWord, encode, mask_F000, nib3_formatXI]; decide⟩

theorem drw (x : Reg) (y : Reg) (n : Nat) : Statement (.drw x y n) :=
  ⟨⟨"DRW", 0xF000#16, 0xD000#16⟩, by decide, rfl, rfl, by
    simp only [TableRow.matchesWord, encode, mask_F000, nib3_formatXY]; decide⟩

theorem skp (x : Reg) : Statement (.skp x) :=
  ⟨⟨"SKP", 0xF0FF#16, 0xE09E#16⟩, by decide, rfl, rfl, by
    simp only [TableRow.matchesWord, encode, mask_F0FF, nib3_formatXI, nnField_formatXI]; decide⟩

theorem sknp (x : Reg) : Statement (.sknp x) :=
  ⟨⟨"SKNP", 0xF0FF#16, 0xE0A1#16⟩, by decide, rfl, rfl, by
    simp only [TableRow.matchesWord, encode, mask_F0FF, nib3_formatXI, nnField_formatXI]; decide⟩

theorem getdt (x : Reg) : Statement (.getdt x) :=
  ⟨⟨"GETDT", 0xF0FF#16, 0xF007#16⟩, by decide, rfl, rfl, by
    simp only [TableRow.matchesWord, encode, mask_F0FF, nib3_formatXI, nnField_formatXI]; decide⟩

theorem waitk (x : Reg) : Statement (.waitk x) :=
  ⟨⟨"WAITK", 0xF0FF#16, 0xF00A#16⟩, by decide, rfl, rfl, by
    simp only [TableRow.matchesWord, encode, mask_F0FF, nib3_formatXI, nnField_formatXI]; decide⟩

theorem setdt (x : Reg) : Statement (.setdt x) :=
  ⟨⟨"SETDT", 0xF0FF#16, 0xF015#16⟩, by decide, rfl, rfl, by
    simp only [TableRow.matchesWord, encode, mask_F0FF, nib3_formatXI, nnField_formatXI]; decide⟩

theorem setst (x : Reg) : Statement (.setst x) :=
  ⟨⟨"SETST", 0xF0FF#16, 0xF018#16⟩, by decide, rfl, rfl, by
    simp only [TableRow.matchesWord, encode, mask_F0FF, nib3_formatXI, nnField_formatXI]; decide⟩

theorem addix (x : Reg) : Statement (.addix x) :=
  ⟨⟨"ADDIX", 0xF0FF#16, 0xF01E#16⟩, by decide, rfl, rfl, by
    simp only [TableRow.matchesWord, encode, mask_F0FF, nib3_formatXI, nnField_formatXI]; decide⟩

theorem font (x : Reg) : Statement (.font x) :=
  ⟨⟨"FONT", 0xF0FF#16, 0xF029#16⟩, by decide, rfl, rfl, by
    simp only [TableRow.matchesWord, encode, mask_F0FF, nib3_formatXI, nnField_formatXI]; decide⟩

theorem bcd (x : Reg) : Statement (.bcd x) :=
  ⟨⟨"BCD", 0xF0FF#16, 0xF033#16⟩, by decide, rfl, rfl, by
    simp only [TableRow.matchesWord, encode, mask_F0FF, nib3_formatXI, nnField_formatXI]; decide⟩

theorem stm (x : Reg) : Statement (.stm x) :=
  ⟨⟨"STM", 0xF0FF#16, 0xF055#16⟩, by decide, rfl, rfl, by
    simp only [TableRow.matchesWord, encode, mask_F0FF, nib3_formatXI, nnField_formatXI]; decide⟩

theorem ldm (x : Reg) : Statement (.ldm x) :=
  ⟨⟨"LDM", 0xF0FF#16, 0xF065#16⟩, by decide, rfl, rfl, by
    simp only [TableRow.matchesWord, encode, mask_F0FF, nib3_formatXI, nnField_formatXI]; decide⟩

end Sys2Proof.Laws.MatchesRow
end

