-- ==== Sys2Proof/Tests/Slice0.lean ====
section
/-! SUPPORT. The model's own tests: the well-formedness smoke, the decoding of words written out from the spec, single
ticks, single host operations, and for each statement with hypotheses a witness that meets them. Every expected value
is of spec/95_test_vectors.md, named by its T-id, or worked from the rule named. -/

open Sys2Proof Sys2Proof.Machine

namespace Sys2Proof.Tests

/-! ### Helpers -/

/-- A state with some registers set. -/
def regs (rs : List (Reg × Byte)) (s : State) : State := rs.foldl (fun t r => t.setReg r.1 r.2) s

/-- A value seen after one step; none where the step gives no next state. -/
def seen {α : Type} (s : State) (f : State → α) : Option α :=
  match step s with
  | .next t => some (f t)
  | .fault _ => none
  | .refused _ => none

/-- A value seen after one tick of an opcode word placed where fetch reads. -/
def after {α : Type} (word : Nat) (s : State) (f : State → α) : Option α := seen (s.withFetchWord 16 word) f

/-- What a test of a fault looks at. -/
def latchAndPc (s : State) : Option FaultRecord × Word16 := (s.fault, s.pc)

/-- The display with exactly these cells lit. -/
def lit (cells : List Nat) : Display := cells.foldl (fun d k => d ||| BitVec.twoPow 2048 k) 0#2048

theorem seen_spec {α : Type} {s : State} {f : State → α} {v : α} (h : seen s f = some v) :
    ∃ t, step s = .next t ∧ f t = v := by
  unfold seen at h
  split at h
  · exact ⟨_, ‹_›, Option.some.inj h⟩
  · cases h
  · cases h

/-! ### Well-formed instructions (30_encoding.md R72: n is 0 to 15) -/

theorem test_drw_of_16_rows_is_ill_formed : (Instr.drw 0 0 16).wellFormed = false := by decide
theorem test_drw_of_15_rows_is_well_formed : (Instr.drw 0 0 15).wellFormed = true := by decide

/-! ### Decoding (30_encoding.md R75, R78; T-DEC-2, T-DEC-3) -/

theorem test_decode_control_transfer :
    decodeTableWord 16 0x0000 = some .nop ∧ decodeTableWord 16 0x00EE = some .ret ∧
    decodeTableWord 16 0x1ABC = some (.jp 0xABC#12) ∧ decodeTableWord 16 0x2F00 = some (.call 0xF00#12) ∧
    decodeTableWord 16 0xB456 = some (.jpv0 0x456#12) := by decide

theorem test_decode_skips :
    decodeTableWord 16 0x3A7F = some (.sei 0xA 0x7F#8) ∧ decodeTableWord 16 0x4B00 = some (.snei 0xB 0x00#8) ∧
    decodeTableWord 16 0x5CD0 = some (.ser 0xC 0xD) ∧ decodeTableWord 16 0x9AB0 = some (.sner 0xA 0xB) ∧
    decodeTableWord 16 0xE49E = some (.skp 4) ∧ decodeTableWord 16 0xE5A1 = some (.sknp 5) := by decide

theorem test_decode_moves_and_logic :
    decodeTableWord 16 0x6E42 = some (.ldi 0xE 0x42#8) ∧ decodeTableWord 16 0x7FFF = some (.addi 0xF 0xFF#8) ∧
    decodeTableWord 16 0x8120 = some (.mov 1 2) ∧ decodeTableWord 16 0x8121 = some (.or 1 2) ∧
    decodeTableWord 16 0x8122 = some (.and 1 2) ∧ decodeTableWord 16 0x8123 = some (.xor 1 2) := by decide

theorem test_decode_arithmetic :
    decodeTableWord 16 0x8124 = some (.add 1 2) ∧ decodeTableWord 16 0x8125 = some (.sub 1 2) ∧
    decodeTableWord 16 0x8126 = some (.shr 1 2) ∧ decodeTableWord 16 0x8127 = some (.subn 1 2) ∧
    decodeTableWord 16 0x812E = some (.shl 1 2) ∧ decodeTableWord 16 0xC30F = some (.rnd 3 0x0F#8) := by decide

theorem test_decode_index_and_memory :
    decodeTableWord 16 0xA123 = some (.ldix 0x123#12) ∧ decodeTableWord 16 0xFA1E = some (.addix 0xA) ∧
    decodeTableWord 16 0xFB29 = some (.font 0xB) ∧ decodeTableWord 16 0xFC33 = some (.bcd 0xC) ∧
    decodeTableWord 16 0xFD55 = some (.stm 0xD) ∧ decodeTableWord 16 0xFE65 = some (.ldm 0xE) := by decide

theorem test_decode_display_timers_and_keys :
    decodeTableWord 16 0x00E0 = some .cls ∧ decodeTableWord 16 0xD125 = some (.drw 1 2 5) ∧
    decodeTableWord 16 0xF607 = some (.getdt 6) ∧ decodeTableWord 16 0xF70A = some (.waitk 7) ∧
    decodeTableWord 16 0xF815 = some (.setdt 8) ∧ decodeTableWord 16 0xF918 = some (.setst 9) := by decide

theorem test_invalid_words_are_rejected :
    [0x0001, 0x00E1, 0x00EF, 0x0FFF, 0x0200, 0x5001, 0x512F, 0x8008, 0x812F, 0x9001, 0xE000, 0xE09F, 0xE1A0, 0xF000,
      0xF108, 0xF075, 0xF0FF].all (fun w => decodeTableWord 16 w = none) = true := by decide

theorem test_short_input_is_rejected : decode [0x12#8] = .error .truncated ∧ decode [] = .error .truncated := by decide

theorem test_decode_leaves_the_bytes_after : decode [0x6E#8, 0x42#8, 0x99#8] = .ok (.ldi 0xE 0x42#8, [0x99#8]) := by decide

/-- Program P3 of section 3, whose sprite is two DB lines. -/
theorem test_assemble_image :   -- R82, P3
    assemble [.instr (.ldix 0x20C#12), .instr (.ldi 0 0x3E#8), .instr (.ldi 1 0x1F#8), .instr (.drw 0 1 2),
      .instr (.drw 0 1 2), .instr (.jp 0x20A#12), .db [0xC3#8], .db [0x81#8]] =
      [0xA2#8, 0x0C#8, 0x60#8, 0x3E#8, 0x61#8, 0x1F#8, 0xD0#8, 0x12#8, 0xD0#8, 0x12#8, 0x12#8, 0x0A#8, 0xC3#8, 0x81#8] := by
  decide

theorem test_assemble_dw_is_high_byte_first :   -- R82
    assemble [.dw 0x512F#16, .instr (.shr 1 2)] = [0x51#8, 0x2F#8, 0x81#8, 0x26#8] := by decide

/-! ### Fetch and tick (T-DEC-2, T-FET-1 to T-FET-6) -/

theorem test_fetch_is_high_byte_first :
    seen (State.reset.storeBytes 0x200 [0x12#8, 0x34#8]) (·.pc) = some 0x234#16 := by decide

theorem test_fetch_at_an_odd_pc :
    seen ((State.reset.storeBytes 0x201 [0x60#8, 0x07#8]).setPc 0x201#16) (fun t => (t.reg 0, t.pc)) =
      some (0x07#8, 0x203#16) := by decide

theorem test_fetch_of_the_last_word :
    seen ((State.reset.storeBytes 0xFFE [0x6A#8, 0x55#8]).setPc 0xFFE#16) (fun t => (t.reg 0xA, t.pc)) =
      some (0x55#8, 0x1000#16) := by decide

theorem test_fetch_fault_keeps_pc :
    seen (State.reset.setPc 0xFFF#16) latchAndPc = some (some ⟨.fetchOutOfBounds, 0xFFF#16, 0#16⟩, 0xFFF#16) := by decide

theorem test_invalid_word_faults_after_the_advance :
    after 0x512F State.reset latchAndPc = some (some ⟨.invalidOpcode, 0x200#16, 0x512F#16⟩, 0x202#16) := by decide

theorem test_halted_tick_changes_nothing :
    step (State.reset.raise .stackOverflow 0x200#16 0x2200#16) =
      .next (State.reset.raise .stackOverflow 0x200#16 0x2200#16) := by rfl

/-! ### Control transfer (T-CTL) -/

theorem test_nop : after 0x0000 State.reset id = some (State.reset.setPc 0x202#16) := by decide +kernel   -- T-CTL-1
theorem test_jp : after 0x1ABC State.reset (·.pc) = some 0xABC#16 := by decide   -- T-CTL-2

theorem test_call_into_the_last_slot :   -- T-CTL-6
    after 0x2300 { State.reset with sp := 15 } (fun t => (t.slot 15, t.sp, t.pc)) = some (0x202#16, 16, 0x300#16) := by
  decide

theorem test_call_on_a_full_stack :   -- T-CTL-7
    after 0x2300 { State.reset with sp := 16 } latchAndPc =
      some (some ⟨.stackOverflow, 0x200#16, 0x2300#16⟩, 0x202#16) := by decide

theorem test_ret_from_a_full_stack :   -- T-CTL-10
    after 0x00EE { State.reset with sp := 16, stack := State.reset.stack.set 15 0x208#16 }
      (fun t => (t.slot 15, t.sp, t.pc)) = some (0x208#16, 15, 0x208#16) := by decide

theorem test_ret_on_an_empty_stack :   -- T-CTL-9
    after 0x00EE State.reset latchAndPc = some (some ⟨.stackUnderflow, 0x200#16, 0x00EE#16⟩, 0x202#16) := by decide

theorem test_jpv0_is_not_reduced :   -- T-CTL-12
    after 0xBFFF (regs [(0, 0xFF#8)] State.reset) (·.pc) = some 0x10FE#16 := by decide

/-! ### Skips (T-SKP) -/

theorem test_sei_taken : after 0x3342 (regs [(3, 0x42#8)] State.reset) (·.pc) = some 0x204#16 := by decide   -- T-SKP-1
theorem test_sei_not_taken : after 0x3342 (regs [(3, 0x41#8)] State.reset) (·.pc) = some 0x202#16 := by decide   -- T-SKP-2
theorem test_snei : after 0x4342 (regs [(3, 0x41#8)] State.reset) (·.pc) = some 0x204#16 := by decide   -- T-SKP-4
theorem test_ser :   -- T-SKP-5
    after 0x5120 (regs [(1, 0x80#8), (2, 0x80#8)] State.reset) (·.pc) = some 0x204#16 := by decide
theorem test_sner :   -- T-SKP-8
    after 0x9120 (regs [(1, 0x80#8), (2, 0x80#8)] State.reset) (·.pc) = some 0x202#16 := by decide

/-- Keys 10 and 15 pressed, V4 naming a key. -/
def keyed (v4 : Byte) : State := regs [(4, v4)] { State.reset with keys := (State.reset.keys.set 10 true).set 15 true }

theorem test_skp_of_key_15 : after 0xE49E (keyed 0x0F#8) (·.pc) = some 0x204#16 := by decide   -- T-SKP-15
theorem test_skp_above_15 :   -- T-SKP-16
    after 0xE49E (keyed 0x10#8) latchAndPc = some (some ⟨.keyIndexOutOfRange, 0x200#16, 0xE49E#16⟩, 0x202#16) := by decide
theorem test_sknp_of_a_pressed_key : after 0xE4A1 (keyed 0x0A#8) (·.pc) = some 0x202#16 := by decide   -- T-SKP-13
theorem test_sknp_above_15 :   -- T-SKP-17
    after 0xE4A1 (keyed 0xFF#8) latchAndPc = some (some ⟨.keyIndexOutOfRange, 0x200#16, 0xE4A1#16⟩, 0x202#16) := by decide

/-! ### Registers and arithmetic -/

/-- What a test of the arithmetic looks at: V1, V2 and VF. -/
def v12f (s : State) : Byte × Byte × Byte := (s.reg 1, s.reg 2, s.reg vf)

/-- V1, V2 and VF as given. -/
def alu (v1 v2 f : Byte) : State := regs [(1, v1), (2, v2), (vf, f)] State.reset

theorem test_ldi_of_vf : after 0x6F07 State.reset v12f = some (0x00#8, 0x00#8, 0x07#8) := by decide   -- T-LDI-2
theorem test_addi_wraps_without_a_flag :   -- T-ADDI-1
    after 0x7101 (alu 0xFF#8 0#8 0#8) v12f = some (0x00#8, 0x00#8, 0x00#8) := by decide
theorem test_mov : after 0x8120 (alu 0xF0#8 0x3C#8 7#8) v12f = some (0x3C#8, 0x3C#8, 7#8) := by decide   -- T-MOV-1
theorem test_or : after 0x8121 (alu 0xF0#8 0x3C#8 7#8) v12f = some (0xFC#8, 0x3C#8, 7#8) := by decide   -- T-OR-1
theorem test_and : after 0x8122 (alu 0xF0#8 0x3C#8 7#8) v12f = some (0x30#8, 0x3C#8, 7#8) := by decide   -- T-AND-1
theorem test_xor : after 0x8123 (alu 0xF0#8 0x3C#8 7#8) v12f = some (0xCC#8, 0x3C#8, 7#8) := by decide   -- T-XOR-1
theorem test_add : after 0x8124 (alu 0xC8#8 0x64#8 0#8) v12f = some (0x2C#8, 0x64#8, 1#8) := by decide   -- T-ADD-4
theorem test_add_into_vf : after 0x8F24 (alu 0#8 3#8 5#8) v12f = some (0#8, 3#8, 0#8) := by decide   -- T-ADD-7
theorem test_sub : after 0x8125 (alu 3#8 5#8 1#8) v12f = some (0xFE#8, 5#8, 0#8) := by decide   -- T-SUB-1
theorem test_sub_of_equals : after 0x8125 (alu 7#8 7#8 0#8) v12f = some (0#8, 7#8, 1#8) := by decide   -- T-SUB-3
theorem test_subn : after 0x8127 (alu 5#8 3#8 1#8) v12f = some (0xFE#8, 3#8, 0#8) := by decide   -- T-SUBN-2
theorem test_subn_into_vf : after 0x8F27 (alu 0#8 5#8 3#8) v12f = some (0#8, 5#8, 1#8) := by decide   -- T-SUBN-6
theorem test_shr : after 0x8126 (alu 5#8 0xAA#8 0#8) v12f = some (2#8, 0xAA#8, 1#8) := by decide   -- T-SHR-1
theorem test_shr_of_vf : after 0x8F26 (alu 0#8 0#8 2#8) v12f = some (0#8, 0#8, 0#8) := by decide   -- T-SHR-6
theorem test_shl : after 0x812E (alu 0x81#8 0xAA#8 0#8) v12f = some (2#8, 0xAA#8, 1#8) := by decide   -- T-SHL-1
theorem test_shl_of_vf : after 0x8F2E (alu 0#8 0#8 0x41#8) v12f = some (0#8, 0#8, 0#8) := by decide   -- T-SHL-5

/-- T-RND-2, for every draw. -/
theorem test_rnd_under_mask_zero : after 0xC100 (alu 0xEE#8 0#8 0#8) (fun t => (v12f t, t.draws)) =
    some ((Config.draw 0 &&& 0#8, 0#8, 0#8), 1) := by rfl

/-- T-RND-1, for the draw 0xA7. -/
theorem test_rnd_masks_the_draw : v12f (State.reset.takeDraw 1 0x0F#8 0xA7#8) = (0x07#8, 0#8, 0#8) := by decide

/-! ### Index register and memory -/

theorem test_ldix : after 0xAFFF State.reset (·.I) = some 0x0FFF#16 := by decide   -- T-IX-2
theorem test_addix_wraps_at_16_bits :   -- T-IX-6
    after 0xF21E (regs [(2, 0xFF#8)] (State.reset.setI 0xFF80#16)) (fun t => (t.I, t.reg vf)) = some (0x007F#16, 0#8) := by
  decide
theorem test_addix_passes_the_end_of_memory :   -- T-IX-4
    after 0xF21E (regs [(2, 1#8)] (State.reset.setI 0x0FFF#16)) (fun t => (t.I, t.fault)) = some (0x1000#16, none) := by
  decide
theorem test_font : after 0xF029 (regs [(0, 0x0A#8)] State.reset) (·.I) = some 0x0032#16 := by decide   -- T-FONT-1
theorem test_font_is_not_masked : after 0xF029 (regs [(0, 0x10#8)] State.reset) (·.I) = some 0x0050#16 := by decide   -- T-FONT-4
theorem test_bcd : after 0xF033 (regs [(0, 234#8)] (State.reset.setI 0x300#16)) (fun t => t.mem.readBytes t.font 0x300 3) =
    some [2#8, 3#8, 4#8] := by decide   -- T-BCD-8
theorem test_bcd_past_the_end_stores_nothing :   -- T-BCD-11
    after 0xF033 (regs [(0, 255#8)] (State.reset.setI 0xFFE#16)) (fun t => (latchAndPc t, t.mem.readBytes t.font 0xFFE 2)) =
      some ((some ⟨.memoryOutOfBounds, 0x200#16, 0xF033#16⟩, 0x202#16), [0#8, 0#8]) := by decide

/-- T-MEM-1. -/
theorem test_stm : after 0xF255 (regs [(0, 0x11#8), (1, 0x22#8), (2, 0x33#8), (3, 0x44#8)] (State.reset.setI 0x400#16))
    (fun t => (t.mem.readBytes t.font 0x400 4, t.I)) = some ([0x11#8, 0x22#8, 0x33#8, 0#8], 0x400#16) := by decide
theorem test_stm_past_the_end_faults :   -- T-MEM-4
    after 0xFF55 (State.reset.setI 0xFF1#16) latchAndPc =
      some (some ⟨.memoryOutOfBounds, 0x200#16, 0xFF55#16⟩, 0x202#16) := by decide
theorem test_ldm :   -- T-MEM-7
    after 0xF265 ((regs [(3, 0x99#8)] (State.reset.setI 0x300#16)).storeBytes 0x300 [2#8, 3#8, 4#8, 5#8])
      (fun t => ([t.reg 0, t.reg 1, t.reg 2, t.reg 3], t.I)) = some ([2#8, 3#8, 4#8, 0x99#8], 0x300#16) := by decide
theorem test_ldm_address_is_not_reduced :   -- T-MEM-10
    after 0xF065 (State.reset.setI 0xFFF0#16) latchAndPc =
      some (some ⟨.memoryOutOfBounds, 0x200#16, 0xF065#16⟩, 0x202#16) := by decide

/-! ### Display -/

theorem test_cls : after 0x00E0 (regs [(vf, 1#8)] (State.reset.setDisp (lit [0, 777, 2047])))   -- T-CLS-1
    (fun t => (t.disp, t.reg vf, t.pc)) = some (0#2048, 1#8, 0x202#16) := by decide +kernel
theorem test_drw_wraps_both_ways :   -- T-DRW-1
    after 0xD012 ((regs [(0, 62#8), (1, 31#8)] (State.reset.setI 0x20C#16)).storeBytes 0x20C [0xC3#8, 0x81#8])
      (fun t => (t.disp, t.reg vf)) = some (lit [5, 62, 1988, 1989, 2046, 2047], 0#8) := by decide +kernel
theorem test_drw_collides :   -- T-DRW-5
    after 0xD011 (((State.reset.setI 0x300#16).setDisp (lit [3])).storeBytes 0x300 [0xF0#8])
      (fun t => (t.disp, t.reg vf)) = some (lit [0, 1, 2], 1#8) := by decide +kernel

/-! ### Timers and keys -/

theorem test_getdt : after 0xF307 (State.reset.setDT 0x2A#8) (fun t => (t.reg 3, t.DT)) = some (0x2A#8, 0x2A#8) := by decide   -- T-TMR-6
theorem test_setdt : after 0xF315 (regs [(3, 0x3C#8)] State.reset) (fun t => (t.DT, t.ST)) = some (0x3C#8, 0#8) := by decide   -- T-TMR-7
theorem test_setst : after 0xF318 (regs [(3, 1#8)] State.reset) (fun t => (t.DT, t.ST)) = some (0#8, 1#8) := by decide   -- T-TMR-8
theorem test_waitk_takes_the_lowest_key :   -- T-KEY-2
    after 0xF20A { State.reset with keys := (State.reset.keys.set 7 true).set 3 true } (fun t => (t.reg 2, t.pc)) =
      some (3#8, 0x202#16) := by decide
theorem test_waitk_waits :   -- T-KEY-1
    after 0xF20A State.reset id = some (State.reset.withFetchWord 16 0xF20A) := by decide +kernel

/-! ### Host operations -/

theorem test_tick_timer_sounds_from_one :   -- T-TMR-2
    transact .tickTimer (State.reset.setST 1#8) = (State.reset, .sound) := by decide +kernel
theorem test_tick_timer_does_not_wrap : transact .tickTimer State.reset = (State.reset, .done) := by decide +kernel   -- T-TMR-4
theorem test_keypress_index_16_is_refused :   -- T-KEY-6
    transact (.keypress 16 true) State.reset = (State.reset, .refused .keypressOutOfRange) := by decide +kernel
theorem test_reset_then_load :   -- T-HOST-1
    ((runHost [.reset, .load [0x60#8, 0x05#8, 0x70#8, 0x05#8]] (State.reset.setPc 0x2F0#16)).1.mem,
      (runHost [.reset, .load [0x60#8, 0x05#8, 0x70#8, 0x05#8]] (State.reset.setPc 0x2F0#16)).1.pc) =
      ([(0x200, 0x60#8), (0x201, 0x05#8), (0x202, 0x70#8), (0x203, 0x05#8)], 0x200#16) := by decide
theorem test_reset_clears_the_latch :   -- T-HOST-6
    transact .reset ((regs [(3, 9#8)] (State.reset.setDT 9#8)).raise .stackOverflow 0x200#16 0x2200#16) =
      (State.reset, .done) := by decide +kernel

/-! ### Witnesses: states and operands that meet the hypotheses of the statements -/

/-- A state about to run an opcode word. -/
def at_ (word : Nat) : State := State.reset.withFetchWord 16 word

/-- The last fetchable pc, about to run an opcode word. -/
def atEnd (word : Nat) : State := (State.reset.setPc 0xFFE#16).withFetchWord 16 word

theorem witness_DecodeOfEncodeIsTheInstruction :
    (Instr.drw 15 15 15).wellFormed = true ∧ (Instr.drw 0 0 0).wellFormed = true ∧ Instr.nop.wellFormed = true := by decide

theorem witness_EncodeOfDecodeIsTheWord :
    decodeWord 0xDFFF#16 = .ok (.drw 15 15 15) ∧ decodeWord 0x8FF6#16 = .ok (.shr 15 15) := by decide

theorem witness_WordsOfARowAreItsInstruction :
    (⟨"SHL", 0xF00F#16, 0x800E#16⟩ : TableRow) ∈ opcodeTable ∧ 0x8FFE#16 &&& 0xF00F#16 = 0x800E#16 ∧
    decodeWord 0x8FFE#16 = .ok (.shl 15 15) ∧ (Instr.shl 15 15).mnemonic = "SHL" := by decide

theorem witness_StepExecutesTheDecodedInstruction :
    (atEnd 0xD125).Running ∧ (atEnd 0xD125).pc.toNat ≤ 0xFFE ∧
    (0xD125#16).toNat = ((atEnd 0xD125).readMem (atEnd 0xD125).pc.toNat).toNat * 256 +
      ((atEnd 0xD125).readMem ((atEnd 0xD125).pc.toNat + 1)).toNat ∧
    decodeWord 0xD125#16 = .ok (.drw 1 2 5) := by decide

theorem witness_FetchOutsideMemoryLatchesItsFault :
    (State.reset.setPc 0xFFF#16).Running ∧ (State.reset.setPc 0xFFF#16).pc.toNat > 0xFFE := by decide

theorem witness_InvalidWordLatchesItsFault :
    (atEnd 0x00E1).Running ∧ (atEnd 0x00E1).pc.toNat ≤ 0xFFE ∧
    (0x00E1#16).toNat = ((atEnd 0x00E1).readMem (atEnd 0x00E1).pc.toNat).toNat * 256 +
      ((atEnd 0x00E1).readMem ((atEnd 0x00E1).pc.toNat + 1)).toNat ∧
    decodeWord 0x00E1#16 = .error (.invalidOpcode 0x00E1#16) := by decide

theorem witness_PcAfterATick_fetch_fault :
    ∃ t, (State.reset.setPc 0xFFF#16).Running ∧ step (State.reset.setPc 0xFFF#16) = .next t ∧
      (State.reset.setPc 0xFFF#16).pc.toNat > 0xFFE :=
  ⟨_, by decide, rfl, by decide⟩

theorem witness_PcAfterATick_invalid_word :
    ∃ t, step (atEnd 0x00E1) = .next t ∧ (atEnd 0x00E1).pc.toNat ≤ 0xFFE ∧ t.Halted ∧
      decodeWord (atEnd 0x00E1).fetchWord = .error (.invalidOpcode (atEnd 0x00E1).fetchWord) :=
  ⟨_, rfl, by decide, by decide, by decide⟩

/-- A running core steps to a running core, and the word fetched is the instruction. -/
def runs (s : State) (i : Instr) : Bool :=
  decide (s.Running ∧ s.pc.toNat ≤ 0xFFE ∧ decodeWord s.fetchWord = .ok i) && (seen s fun t => t.fault) == some none

theorem runs_spec {s : State} {i : Instr} (h : runs s i = true) :
    ∃ t, s.Running ∧ step s = .next t ∧ s.pc.toNat ≤ 0xFFE ∧ t.Running ∧ decodeWord s.fetchWord = .ok i := by
  simp only [runs, Bool.and_eq_true, decide_eq_true_eq, beq_iff_eq] at h
  obtain ⟨⟨hr, hp, hd⟩, hs⟩ := h
  obtain ⟨t, ht, hf⟩ := seen_spec hs
  exact ⟨t, hr, ht, hp, hf, hd⟩

/-- With `runs_spec`, every premise of PcAfterATick's clauses on instructions, each taken both ways where it has two. -/
theorem witness_PcAfterATick_instructions :
    runs (atEnd 0x8124) (.add 1 2) = true ∧ runs (at_ 0x3300) (.sei 3 0#8) = true ∧
    runs (at_ 0x3301) (.sei 3 1#8) = true ∧ runs (at_ 0x4301) (.snei 3 1#8) = true ∧
    runs (at_ 0x5120) (.ser 1 2) = true ∧ runs (at_ 0x9120) (.sner 1 2) = true ∧
    runs ((keyed 0x0F#8).withFetchWord 16 0xE49E) (.skp 4) = true ∧
    runs ((keyed 0x0F#8).withFetchWord 16 0xE4A1) (.sknp 4) = true ∧ ((keyed 0x0F#8).reg 4).toNat = (15 : Fin 16).val ∧
    runs (at_ 0x1ABC) (.jp 0xABC#12) = true ∧
    runs ({ State.reset with sp := 15 }.withFetchWord 16 0x2300) (.call 0x300#12) = true ∧
    runs ({ State.reset with sp := 16 }.withFetchWord 16 0x00EE) .ret = true ∧
    runs ({ State.reset with sp := 1 }.withFetchWord 16 0x00EE) .ret = true ∧
    runs (at_ 0xBFFF) (.jpv0 0xFFF#12) = true ∧ runs (at_ 0xF20A) (.waitk 2) = true ∧
    runs ((keyed 0#8).withFetchWord 16 0xF20A) (.waitk 2) = true := by decide

theorem witness_FaultingTickChangesOnlyLatchAndPc :
    (∃ t, (at_ 0x00EE).Running ∧ step (at_ 0x00EE) = .next t ∧ t.Halted) ∧
    (∃ t, (State.reset.setPc 0x1000#16).Running ∧ step (State.reset.setPc 0x1000#16) = .next t ∧ t.Halted) :=
  ⟨⟨_, by decide, rfl, by decide⟩, ⟨_, by decide, rfl, by decide⟩⟩

theorem witness_CauseLatchedByATick :
    (∃ t, (at_ 0x00EE).Running ∧ step (at_ 0x00EE) = .next t) ∧ (∃ t, (at_ 0x0000).Running ∧ step (at_ 0x0000) = .next t) :=
  ⟨⟨_, by decide, rfl⟩, ⟨_, by decide, rfl⟩⟩

theorem witness_OwnFaultOnlySetsTheLatch :
    ownFault (.call 0x300#12) { State.reset with sp := 16 } = some .stackOverflow ∧
    ownFault .ret State.reset = some .stackUnderflow ∧
    ownFault (.skp 4) (keyed 0x10#8) = some .keyIndexOutOfRange ∧ ownFault (.sknp 4) (keyed 0xFF#8) = some .keyIndexOutOfRange ∧
    ownFault (.drw 0 0 2) (State.reset.setI 0xFFF#16) = some .memoryOutOfBounds ∧
    ownFault (.bcd 0) (State.reset.setI 0xFFE#16) = some .memoryOutOfBounds ∧
    ownFault (.stm 15) (State.reset.setI 0xFF1#16) = some .memoryOutOfBounds ∧
    ownFault (.ldm 0) (State.reset.setI 0x1000#16) = some .memoryOutOfBounds := by decide

theorem witness_EveryInstructionCompletesInItsFrame :
    (Instr.drw 0 0 15).wellFormed = true ∧ ownFault (.drw 0 0 15) (State.reset.setI 0xFF1#16) = none ∧
    ownFault (.drw 0 0 0) (State.reset.setI 0xFFFF#16) = none ∧
    ownFault (.call 0x300#12) { State.reset with sp := 15 } = none ∧ ownFault .ret { State.reset with sp := 1 } = none ∧
    ownFault (.skp 4) (keyed 0x0F#8) = none ∧ ownFault (.bcd 0) (State.reset.setI 0xFFD#16) = none ∧
    ownFault (.stm 15) (State.reset.setI 0xFF0#16) = none ∧ ownFault (.ldm 0) (State.reset.setI 0xFFF#16) = none ∧
    ownFault (.add 15 15) State.reset = none := by decide

theorem witness_CallPushesAndJumps :
    State.reset.sp.val = (0 : Fin 16).val ∧ { State.reset with sp := 15 }.sp.val = (15 : Fin 16).val ∧
    { State.reset with sp := 16 }.sp.val = 16 := by decide

theorem witness_RetPopsIntoPc :
    { State.reset with sp := 1 }.sp.val = (0 : Fin 16).val + 1 ∧ { State.reset with sp := 16 }.sp.val = (15 : Fin 16).val + 1 ∧
    State.reset.sp.val = 0 := by decide

theorem witness_CallThenRetReturns : { State.reset with sp := 15 }.sp.val = (15 : Fin 16).val := by decide

theorem witness_KeySkipsTestTheNamedKey :
    ((keyed 0x00#8).reg 4).toNat = (0 : Fin 16).val ∧ ((keyed 0x0F#8).reg 4).toNat = (15 : Fin 16).val ∧
    ((keyed 0x10#8).reg 4).toNat > 15 := by decide

/-- The five arithmetic statements share the premise of their result clause. -/
theorem witness_AddGivesSumAndCarry : (14 : Reg) ≠ vf := by decide
theorem witness_SubGivesDifferenceAndNotBorrow : (14 : Reg) ≠ vf := by decide
theorem witness_SubnGivesReverseDifference : (14 : Reg) ≠ vf := by decide
theorem witness_ShrHalvesAndKeepsTheLowBit : (14 : Reg) ≠ vf := by decide
theorem witness_ShlDoublesAndKeepsTheHighBit : (14 : Reg) ≠ vf := by decide

theorem witness_RndMasksOneDraw : (0x0F#8).getLsbD 7 = false ∧ (0x0F#8).getLsbD 4 = false := by decide

theorem witness_SixInstructionsWriteTheFlag :
    (∃ t, (Instr.add 15 15).wellFormed = true ∧ State.reset.Running ∧ exec (.add 15 15) State.reset = .next t ∧ t.Running ∧
      (Instr.add 15 15).mnemonic ∈ ["ADD", "SUB", "SHR", "SUBN", "SHL", "DRW"]) ∧
    (∃ t, exec (.or 14 15) State.reset = .next t ∧ t.Running ∧
      (Instr.or 14 15).mnemonic ∉ ["ADD", "SUB", "SHR", "SUBN", "SHL", "DRW"] ∧
      Component.reg vf ∉ effects (.or 14 15) State.reset) :=
  ⟨⟨_, by decide, by decide, rfl, by decide, by decide⟩,
    ⟨_, rfl, by decide, by decide, by simp [effects, vf]⟩⟩

theorem witness_BcdStoresThreeDigits :
    (State.reset.setI 0xFFD#16).I.toNat + 2 ≤ 0xFFF ∧ (State.reset.setI 0xFFE#16).I.toNat + 2 > 0xFFF := by decide

theorem witness_StmStoresTheRegisters :
    (State.reset.setI 0xFF0#16).I.toNat + (15 : Reg).val ≤ 0xFFF ∧ (State.reset.setI 0xFF1#16).I.toNat + (15 : Reg).val > 0xFFF := by
  decide

theorem witness_LdmLoadsTheRegisters :
    (State.reset.setI 0xFFF#16).I.toNat + (0 : Reg).val ≤ 0xFFF ∧ (State.reset.setI 0x1000#16).I.toNat + (0 : Reg).val > 0xFFF := by
  decide

theorem witness_StmThenLdmGivesTheRegistersBack : (State.reset.setI 0xFF0#16).I.toNat + (15 : Reg).val ≤ 0xFFF := by decide

theorem witness_StoreIsSeenByTheNextFetch :
    ((State.reset.setI 0xFFE#16).setPc 0xFFE#16).I.toNat + (1 : Reg).val ≤ 0xFFF ∧ (1 : Reg).val = (0 : Reg).val + 1 ∧
    (1 : Reg) ≤ 1 ∧
    ((State.reset.setI 0xFFE#16).setPc 0xFFE#16).pc.toNat =
      ((State.reset.setI 0xFFE#16).setPc 0xFFE#16).I.toNat + (0 : Reg).val := by decide

/-- A state whose I points at one sprite row with its column 0 set, at the end of memory. -/
def atSprite : State := (State.reset.setI 0xFFF#16).storeBytes 0xFFF [0x80#8]

theorem witness_DrwXorsTheSprite :
    (State.reset.setI 0xFF1#16).I.toNat + 15 - 1 ≤ 0xFFF ∧ atSprite.I.toNat + 1 - 1 ≤ 0xFFF ∧
    (0 < 2 ∧ atSprite.I.toNat + 2 - 1 > 0xFFF) := by decide

theorem witness_DrwXorsTheSprite_covers : atSprite.spriteCovers 0 0 1 0 ∧ ¬ atSprite.spriteCovers 0 0 0 0 := by
  refine ⟨⟨0, by decide, 0, by decide, by decide, by decide⟩, ?_⟩
  rintro ⟨_, h, _⟩
  exact absurd h (Nat.not_lt_zero _)

theorem witness_SpriteCellsAreDistinct :
    spriteCell 63#8 31#8 14 7 = spriteCell 63#8 31#8 14 7 ∧ 14 < 15 ∧ 7 < 8 := by decide

theorem witness_DrawingTwiceIsTheIdentity :
    1 ≤ 15 ∧ (14 : Reg) ≠ vf ∧ (0 : Reg) ≠ vf ∧ (1 = 0 ∨ atSprite.I.toNat + 1 - 1 ≤ 0xFFF) ∧
    ∀ k, atSprite.pixel k = false := by
  refine ⟨by decide, by decide, by decide, by decide, fun k => ?_⟩
  exact BitVec.getLsbD_zero

theorem witness_WaitkTakesTheLowestKey :
    ((keyed 0#8).key 10 = true ∧ ∀ j < (10 : Fin 16), (keyed 0#8).key j = false) ∧ ∀ k, State.reset.key k = false := by
  decide

theorem witness_WaitingTickChangesNothing :
    (atEnd 0xF20A).Running ∧ (atEnd 0xF20A).pc.toNat ≤ 0xFFE ∧ decodeWord (atEnd 0xF20A).fetchWord = .ok (.waitk 2) ∧
    ∀ k, (atEnd 0xF20A).key k = false := by decide

theorem witness_StepKeepsTheInvariant : (at_ 0xF255).Inv ∧ ∃ t, step (at_ 0xF255) = .next t :=
  ⟨by decide, _, rfl⟩

theorem witness_TransactionsKeepTheInvariant : (atEnd 0xBFFF).Inv := by decide

theorem witness_ReachableStatesAreInRange :
    Reachable (transact .tick (transact (.load [0x60#8, 0x05#8]) { State.resetWith conventionalFont with draws := 0 }).1).1 :=
  .after _ (.after _ (.start conventionalFont 0))

theorem witness_LoadCopiesTheImage : (List.replicate 3584 0xAB#8).length ≤ 3584 ∧ 3583 < (List.replicate 3584 0xAB#8).length := by
  rw [List.length_replicate]
  decide

theorem witness_OneSoundEventPerCountdown : 1 ≤ (State.reset.setST 1#8).ST.toNat ∧ 1 ≤ (State.reset.setST 255#8).ST.toNat := by
  decide

theorem witness_HostRefusalsChangeNothing : (List.replicate 3585 0xAB#8).length > 3584 ∧ 16 > 15 := by
  rw [List.length_replicate]
  decide

/-- A value of FONT that is not the default. -/
def otherFont : Font := Vector.replicate 80 0xAB#8

theorem test_reset_memory_is_the_font :   -- R220, R221
    (State.resetWith otherFont).readMem 0x04F = 0xAB#8 ∧ (State.resetWith otherFont).readMem 0x050 = 0#8 ∧
    State.reset.readMem 0x04B = 0xF0#8 := by decide

theorem witness_ResetValues_of_a_font :
    State.reset = State.resetWith conventionalFont ∧ (State.resetWith otherFont).font = otherFont := ⟨rfl, rfl⟩

theorem witness_ResetValues : 79 < 80 ∧ 80 ≤ 80 ∧ 80 < 4096 ∧ 4095 < 4096 ∧ 2047 < 2048 := by decide

theorem witness_GetDisplayReadsOnly : 63 < 64 ∧ 31 < 32 ∧ 63 + 64 * 31 = 2047 := by decide

theorem witness_TickMovesNoTimerAndNoKey :
    ∃ t, step ((regs [(3, 0x3C#8)] State.reset).withFetchWord 16 0xF315) = .next t ∧
      t.DT ≠ ((regs [(3, 0x3C#8)] State.reset).withFetchWord 16 0xF315).DT :=
  ⟨_, rfl, by decide⟩

theorem witness_HaltedOnlyResetClearsTheLatch : (State.reset.raise .stackOverflow 0x200#16 0x2200#16).Halted := by decide

end Sys2Proof.Tests
end

section
/-! The reset state read piece by piece (spec/10_state.md R38), and what the host's reset keeps of it (R175). -/

namespace Sys2Proof.Machine

/-! ### Each field of the reset state -/

@[simp] theorem State.resetWith_pc (font : Font) : (State.resetWith font).pc = 0x0200#16 := rfl
@[simp] theorem State.resetWith_I (font : Font) : (State.resetWith font).I = 0#16 := rfl
@[simp] theorem State.resetWith_sp (font : Font) : (State.resetWith font).sp = 0 := rfl
@[simp] theorem State.resetWith_DT (font : Font) : (State.resetWith font).DT = 0#8 := rfl
@[simp] theorem State.resetWith_ST (font : Font) : (State.resetWith font).ST = 0#8 := rfl
@[simp] theorem State.resetWith_fault (font : Font) : (State.resetWith font).fault = none := rfl
@[simp] theorem State.resetWith_draws (font : Font) : (State.resetWith font).draws = 0 := rfl
@[simp] theorem State.resetWith_font (font : Font) : (State.resetWith font).font = font := rfl

/-! ### The accessors at the reset state -/

@[simp] theorem State.readMem_resetWith (font : Font) (a : Nat) :
    (State.resetWith font).readMem a = initialByte font a := rfl

@[simp] theorem State.pixel_resetWith (font : Font) (k : Nat) : (State.resetWith font).pixel k = false :=
  BitVec.getLsbD_zero

@[simp] theorem State.reg_resetWith (font : Font) (r : Reg) : (State.resetWith font).reg r = 0#8 :=
  Vector.getElem_replicate r.isLt

@[simp] theorem State.slot_resetWith (font : Font) (k : Fin 16) : (State.resetWith font).slot k = 0#16 :=
  Vector.getElem_replicate k.isLt

@[simp] theorem State.key_resetWith (font : Font) (k : Fin 16) : (State.resetWith font).key k = false :=
  Vector.getElem_replicate k.isLt

/-! ### The host's reset -/

/-- The counter of random draws is a piece of its own: no other piece reads it. -/
theorem agreeOutside_draws_update (s : State) (n : Nat) : AgreeOutside {.draws} s { s with draws := n } := by
  intro c hc
  cases c with
  | draws => exact absurd rfl hc
  | _ => rfl

/-- The host's reset is the reset state but for the random sequence, which it does not restart (R183). -/
theorem resetWith_agreeOutside_hostReset (s : State) :
    AgreeOutside {.draws} (State.resetWith s.font) (hostReset s) :=
  agreeOutside_draws_update (State.resetWith s.font) s.draws

/-- Settles O46: each field's reset value is read off the reset state, and a host reset moves only the draw counter. -/
theorem resetValues : Obligations.ResetValues := by
  refine ⟨⟨conventionalFont, rfl⟩, ?_⟩
  rintro font _ rfl
  have hfont (a : Nat) (h : a < 80) : (State.resetWith font).readMem a = font[a] := initialByte_of_lt font h
  have hzero (a : Nat) (h : 80 ≤ a) (_ : a < 4096) : (State.resetWith font).readMem a = 0x00#8 :=
    initialByte_of_ge font h
  have hhost (s : State) (h : s.font = font) :
      AgreeOutside {.draws} (State.resetWith font) (transact .reset s).1 :=
    h ▸ resetWith_agreeOutside_hostReset s
  exact ⟨State.resetWith_pc font, hfont, hzero, fun k _ => State.pixel_resetWith font k, State.reg_resetWith font,
    State.resetWith_I font, congrArg Fin.val (State.resetWith_sp font), State.slot_resetWith font,
    State.key_resetWith font, State.resetWith_DT font, State.resetWith_ST font, State.resetWith_fault font, hhost⟩

end Sys2Proof.Machine
end

section
/-! One tick as fetch, decode and execute (spec/40_tick_cycle.md R91). -/

namespace Sys2Proof.Machine

/-- R91's equation of numbers determines the word fetched. -/
theorem State.fetchWord_eq_of_toNat {s : State} {op : Word16}
    (h : op.toNat = (s.readMem s.pc.toNat).toNat * 256 + (s.readMem (s.pc.toNat + 1)).toNat) :
    s.fetchWord = op :=
  BitVec.eq_of_toNat_eq (s.toNat_fetchWord.trans h.symm)

/-- Settles O6: the word at pc is the word fetched, and the state that executes is `State.advance`. -/
theorem stepExecutesTheDecodedInstruction : Obligations.StepExecutesTheDecodedInstruction := by
  intro s op i hrun hpc hop hdec
  have hfetch : s.fetchWord = op := State.fetchWord_eq_of_toNat hop
  exact step_of_decode hrun hpc (hfetch ▸ hdec)

end Sys2Proof.Machine
end

section
/-! Control transfer without the call stack (spec/41_control_transfer.md): NOP, JP and JPV0. -/

namespace Sys2Proof.Machine

/-- The program counter is a piece of its own: no other piece reads it. -/
theorem agreeOutside_setPc (s : State) (v : Word16) : AgreeOutside {.pc} s (s.setPc v) := by
  intro c hc
  cases c with
  | pc => exact absurd rfl hc
  | _ => rfl

/-! ### The meaning of each instruction -/

@[simp] theorem exec_nop (s : State) : exec .nop s = .next s := rfl

@[simp] theorem exec_jp (nnn : BitVec 12) (s : State) : exec (.jp nnn) s = .next (s.setPc (addrOperand nnn)) := rfl

@[simp] theorem exec_jpv0 (nnn : BitVec 12) (s : State) :
    exec (.jpv0 nnn) s = .next (s.setPc (zext16 (s.reg 0) + addrOperand nnn)) := rfl

/-- R104: a byte plus a 12-bit address is at most 0x10FE, so the 16-bit addition does not wrap. -/
theorem toNat_zext16_add_addrOperand (v : Byte) (nnn : BitVec 12) :
    (zext16 v + addrOperand nnn).toNat = v.toNat + nnn.toNat := by
  have hv : v.toNat < 256 := v.isLt
  have hnnn : nnn.toNat < 4096 := nnn.isLt
  rw [BitVec.toNat_add_of_lt, toNat_zext16, toNat_addrOperand]
  rw [toNat_zext16, toNat_addrOperand]
  omega

/-! ### The obligations -/

/-- Settles O15: R100 is the whole meaning of NOP. -/
theorem nopChangesNothing : Obligations.NopChangesNothing := exec_nop

/-- Settles O16: JP only sets pc, and widening nnn to 16 bits keeps its value. -/
theorem jpSetsPc : Obligations.JpSetsPc := by
  intro s nnn
  exact ⟨s.setPc (addrOperand nnn), exec_jp nnn s, toNat_addrOperand nnn, agreeOutside_setPc s _⟩

/-- Settles O17: JPV0 only sets pc, to a sum that fits in 16 bits. -/
theorem jpv0AddsV0 : Obligations.Jpv0AddsV0 := by
  intro s nnn
  exact ⟨s.setPc (zext16 (s.reg 0) + addrOperand nnn), exec_jpv0 nnn s,
    toNat_zext16_add_addrOperand (s.reg 0) nnn, agreeOutside_setPc s _⟩

end Sys2Proof.Machine
end

section
/-! The skips on registers and immediates (spec/42_skips.md): SEI, SNEI, SER and SNER. -/

namespace Sys2Proof.Machine

theorem agreeOutside_refl (changed : Set Component) (s : State) : AgreeOutside changed s s := by
  intro c _
  cases c <;> rfl

/-! ### A conditional skip -/

theorem State.skipIf_pc (s : State) (taken : Bool) :
    (s.skipIf taken).pc = if taken = true then s.pc + 2#16 else s.pc := by
  cases taken <;> rfl

theorem agreeOutside_skipIf (s : State) (taken : Bool) : AgreeOutside {.pc} s (s.skipIf taken) := by
  cases taken with
  | true => exact agreeOutside_setPc s (s.pc + 2#16)
  | false => exact agreeOutside_refl {.pc} s

/-- R110, for any instruction that skips on a test: `taken` is the model's test, `p` the comparison the spec
names. -/
theorem exec_skips_iff {i : Instr} {s : State} {taken : Bool} {p : Prop} [Decidable p]
    (hexec : exec i s = .next (s.skipIf taken)) (htest : taken = true ↔ p) :
    ∃ t, exec i s = .next t ∧ t.pc = (if p then s.pc + 2#16 else s.pc) ∧ AgreeOutside {.pc} s t := by
  refine ⟨s.skipIf taken, hexec, ?_, agreeOutside_skipIf s taken⟩
  simp only [State.skipIf_pc, htest]

/-! ### The meaning of each instruction -/

@[simp] theorem exec_sei (x : Reg) (nn : Byte) (s : State) :
    exec (.sei x nn) s = .next (s.skipIf (s.reg x == nn)) := rfl

@[simp] theorem exec_snei (x : Reg) (nn : Byte) (s : State) :
    exec (.snei x nn) s = .next (s.skipIf (s.reg x != nn)) := rfl

@[simp] theorem exec_ser (x y : Reg) (s : State) :
    exec (.ser x y) s = .next (s.skipIf (s.reg x == s.reg y)) := rfl

@[simp] theorem exec_sner (x y : Reg) (s : State) :
    exec (.sner x y) s = .next (s.skipIf (s.reg x != s.reg y)) := rfl

/-! ### The obligation -/

/-- Settles O21: each of the four is a conditional skip, and its Boolean test decides the comparison of its rule. -/
theorem registerSkipsTestEquality : Obligations.RegisterSkipsTestEquality := by
  intro s x y nn
  refine ⟨?sei, ?snei, ?ser, ?sner⟩
  case sei => exact exec_skips_iff (exec_sei x nn s) beq_iff_eq
  case snei => exact exec_skips_iff (exec_snei x nn s) bne_iff_ne
  case ser => exact exec_skips_iff (exec_ser x y s) beq_iff_eq
  case sner => exact exec_skips_iff (exec_sner x y s) bne_iff_ne

end Sys2Proof.Machine
end

section
/-! The register moves and the bitwise logic (spec/43_register_alu.md): LDI, ADDI, MOV, OR, AND and XOR, each of
which writes V[x] and no flag (R120 d). -/

namespace Sys2Proof.Machine

/-- Each register is a piece of its own: no other piece reads it. -/
theorem agreeOutside_setReg (s : State) (x : Reg) (v : Byte) : AgreeOutside {.reg x} s (s.setReg x v) := by
  intro c hc
  cases c with
  | reg q =>
    have hne : q ≠ x := fun h => hc (congrArg Component.reg h)
    exact State.reg_setReg_of_ne s v hne
  | _ => rfl

/-! ### The meaning of each instruction -/

@[simp] theorem exec_ldi (x : Reg) (nn : Byte) (s : State) : exec (.ldi x nn) s = .next (s.setReg x nn) := rfl

@[simp] theorem exec_addi (x : Reg) (nn : Byte) (s : State) :
    exec (.addi x nn) s = .next (s.setReg x (sum8 (s.reg x) nn)) := rfl

@[simp] theorem exec_mov (x y : Reg) (s : State) : exec (.mov x y) s = .next (s.setReg x (s.reg y)) := rfl

@[simp] theorem exec_or (x y : Reg) (s : State) :
    exec (.or x y) s = .next (s.setReg x (s.reg x ||| s.reg y)) := rfl

@[simp] theorem exec_and (x y : Reg) (s : State) :
    exec (.and x y) s = .next (s.setReg x (s.reg x &&& s.reg y)) := rfl

@[simp] theorem exec_xor (x y : Reg) (s : State) :
    exec (.xor x y) s = .next (s.setReg x (s.reg x ^^^ s.reg y)) := rfl

/-- What an instruction does whose whole meaning is to write `v` to V[x]. -/
theorem exec_writes_reg {i : Instr} {s : State} {x : Reg} {v : Byte} (hexec : exec i s = .next (s.setReg x v)) :
    ∃ t, exec i s = .next t ∧ t.reg x = v ∧ AgreeOutside {.reg x} s t :=
  ⟨s.setReg x v, hexec, State.reg_setReg_same s x v, agreeOutside_setReg s x v⟩

/-! ### The obligations -/

/-- Settles O23: each of the three is one register write, and the sum that ADDI writes is taken mod 256. -/
theorem movesWriteOneRegister : Obligations.MovesWriteOneRegister := by
  intro s x y nn
  refine ⟨exec_writes_reg (exec_ldi x nn s), ?addi, exec_writes_reg (exec_mov x y s)⟩
  case addi =>
    obtain ⟨t, hexec, hreg, hframe⟩ := exec_writes_reg (exec_addi x nn s)
    exact ⟨t, hexec, hreg ▸ toNat_sum8 (s.reg x) nn, hframe⟩

/-- Settles O24: each of the three is one register write, of a byte that is computed bit by bit. -/
theorem logicIsBitwise : Obligations.LogicIsBitwise := by
  intro s x y
  refine ⟨?or, ?and, ?xor⟩
  case or =>
    obtain ⟨t, hexec, hreg, hframe⟩ := exec_writes_reg (exec_or x y s)
    exact ⟨t, hexec, fun j => hreg ▸ BitVec.getLsbD_or, hframe⟩
  case and =>
    obtain ⟨t, hexec, hreg, hframe⟩ := exec_writes_reg (exec_and x y s)
    exact ⟨t, hexec, fun j => hreg ▸ BitVec.getLsbD_and, hframe⟩
  case xor =>
    obtain ⟨t, hexec, hreg, hframe⟩ := exec_writes_reg (exec_xor x y s)
    exact ⟨t, hexec, fun j => hreg ▸ BitVec.getLsbD_xor, hframe⟩

end Sys2Proof.Machine
end

section
/-! The index register (spec/44_index_memory.md): LDIX and ADDIX, each of which writes I and no flag. -/

namespace Sys2Proof.Machine

/-- The index register is a piece of its own: no other piece reads it. -/
theorem agreeOutside_setI (s : State) (v : Word16) : AgreeOutside {.index} s (s.setI v) := by
  intro c hc
  cases c with
  | index => exact absurd rfl hc
  | _ => rfl

/-! ### The meaning of each instruction -/

@[simp] theorem exec_ldix (nnn : BitVec 12) (s : State) : exec (.ldix nnn) s = .next (s.setI (addrOperand nnn)) := rfl

@[simp] theorem exec_addix (x : Reg) (s : State) :
    exec (.addix x) s = .next (s.setI (s.I + zext16 (s.reg x))) := rfl

/-- R141: the sum wraps at 65536, not at the end of memory. -/
theorem toNat_add_zext16 (a : Word16) (v : Byte) : (a + zext16 v).toNat = (a.toNat + v.toNat) % 65536 := by
  rw [BitVec.toNat_add, toNat_zext16]

/-! ### The obligation -/

/-- Settles O32: each of the two is one write of I; widening nnn keeps its value, and ADDIX's sum wraps at 16 bits. -/
theorem indexLoadsAndAdds : Obligations.IndexLoadsAndAdds := by
  intro s nnn x
  refine ⟨?ldix, ?addix⟩
  case ldix =>
    exact ⟨s.setI (addrOperand nnn), exec_ldix nnn s, toNat_addrOperand nnn, agreeOutside_setI s _⟩
  case addix =>
    exact ⟨s.setI (s.I + zext16 (s.reg x)), exec_addix x s, toNat_add_zext16 s.I (s.reg x), agreeOutside_setI s _⟩

end Sys2Proof.Machine
end

section
/-! Clearing the display (spec/45_display.md): CLS, which writes every pixel and no flag. -/

namespace Sys2Proof.Machine

@[simp] theorem State.pixel_setDisp (s : State) (d : Display) (k : Nat) : (s.setDisp d).pixel k = d.getLsbD k := rfl

/-- The pixels are the only pieces read from the display. -/
theorem agreeOutside_setDisp (s : State) (d : Display) :
    AgreeOutside { c | ∃ k, c = .pixel k } s (s.setDisp d) := by
  intro c hc
  cases c with
  | pixel k => exact absurd ⟨k, rfl⟩ hc
  | _ => rfl

@[simp] theorem exec_cls (s : State) : exec .cls s = .next (s.setDisp 0#2048) := rfl

/-- Settles O39: CLS is one write of the display, of 2048 bits that are all 0. -/
theorem clsClearsEveryPixel : Obligations.ClsClearsEveryPixel := by
  intro s
  have hunlit (k : Nat) : (s.setDisp 0#2048).pixel k = false := by
    rw [State.pixel_setDisp, BitVec.getLsbD_zero]
  exact ⟨s.setDisp 0#2048, exec_cls s, hunlit, agreeOutside_setDisp s 0#2048⟩

end Sys2Proof.Machine
end

section
/-! The timer moves and the key wait (spec/46_timers_keys.md): GETDT, SETDT, SETST and WAITK. -/

namespace Sys2Proof.Machine

/-- The delay timer is a piece of its own: no other piece reads it. -/
theorem agreeOutside_setDT (s : State) (v : Byte) : AgreeOutside {.delay} s (s.setDT v) := by
  intro c hc
  cases c with
  | delay => exact absurd rfl hc
  | _ => rfl

/-- The sound timer is a piece of its own: no other piece reads it. -/
theorem agreeOutside_setST (s : State) (v : Byte) : AgreeOutside {.sound} s (s.setST v) := by
  intro c hc
  cases c with
  | sound => exact absurd rfl hc
  | _ => rfl

/-! ### The meaning of each instruction -/

@[simp] theorem exec_getdt (x : Reg) (s : State) : exec (.getdt x) s = .next (s.setReg x s.DT) := rfl

@[simp] theorem exec_setdt (x : Reg) (s : State) : exec (.setdt x) s = .next (s.setDT (s.reg x)) := rfl

@[simp] theorem exec_setst (x : Reg) (s : State) : exec (.setst x) s = .next (s.setST (s.reg x)) := rfl

/-- R161 with a key pressed: only V[x] is written, and pc keeps its value. -/
theorem exec_waitk_of_firstPressed_eq_some {s : State} {k : Fin 16} (x : Reg) (h : s.firstPressed = some k) :
    exec (.waitk x) s = .next (s.setReg x (BitVec.ofNat 8 k.val)) := by
  change execWaitk x s = _
  rw [execWaitk, h]

/-- R161 with no key pressed: only pc is written, back to the address of this WAITK. -/
theorem exec_waitk_of_firstPressed_eq_none {s : State} (x : Reg) (h : s.firstPressed = none) :
    exec (.waitk x) s = .next (s.setPc (s.pc - 2#16)) := by
  change execWaitk x s = _
  rw [execWaitk, h]

/-- A key index fits in a byte, so the byte that WAITK writes is the index itself. -/
theorem toNat_ofNat_keyIndex (k : Fin 16) : (BitVec.ofNat 8 k.val).toNat = k.val := by
  have hk : k.val < 2 ^ 8 := by omega
  rw [BitVec.toNat_ofNat, Nat.mod_eq_of_lt hk]

/-! ### The obligations -/

/-- Settles O43: GETDT is one register write, SETDT and SETST are each one write of a timer. -/
theorem timerInstructionsCopyAByte : Obligations.TimerInstructionsCopyAByte := by
  intro s x
  refine ⟨exec_writes_reg (exec_getdt x s), ?setdt, ?setst⟩
  case setdt =>
    exact ⟨s.setDT (s.reg x), exec_setdt x s, State.setDT_DT s _, agreeOutside_setDT s _⟩
  case setst =>
    exact ⟨s.setST (s.reg x), exec_setst x s, State.setST_ST s _, agreeOutside_setST s _⟩

/-- Settles O44: the key that WAITK takes is the first pressed one, which is the pressed key with none pressed below
it; there is no first pressed key exactly when no key is pressed. -/
theorem waitkTakesTheLowestKey : Obligations.WaitkTakesTheLowestKey := by
  intro s x
  refine ⟨?pressed, ?waiting⟩
  case pressed =>
    intro k hk hlower
    have hfirst : s.firstPressed = some k := State.firstPressed_eq_some.mpr ⟨hk, hlower⟩
    obtain ⟨t, hexec, hreg, hframe⟩ := exec_writes_reg (exec_waitk_of_firstPressed_eq_some x hfirst)
    exact ⟨t, hexec, hreg ▸ toNat_ofNat_keyIndex k, hframe⟩
  case waiting =>
    intro hnone
    have hfirst : s.firstPressed = none := State.firstPressed_eq_none.mpr hnone
    exact ⟨s.setPc (s.pc - 2#16), exec_waitk_of_firstPressed_eq_none x hfirst, State.setPc_pc s _,
      agreeOutside_setPc s _⟩

end Sys2Proof.Machine
end

section
/-! The host's operations load, tick_timer, keypress and get_display (spec/47_host_operations.md R172 to R182). -/

namespace Sys2Proof.Machine

/-! ### Consecutive stores -/

/-- Byte k of those stored is read back at its address. -/
theorem State.readMem_storeBytes_add (s : State) (a : Nat) (bs : List Byte) {k : Nat} (h : k < bs.length) :
    (s.storeBytes a bs).readMem (a + k) = bs[k] := by
  have hin : a ≤ a + k ∧ a + k < a + bs.length := by omega
  rw [State.readMem_storeBytes, if_pos hin, Nat.add_sub_cancel_left]
  exact (List.getElem_eq_getD 0#8).symm

/-- An address outside the block that is stored keeps its byte. -/
theorem State.readMem_storeBytes_of_outside (s : State) {a a' : Nat} {bs : List Byte}
    (h : ¬(a ≤ a' ∧ a' < a + bs.length)) : (s.storeBytes a bs).readMem a' = s.readMem a' := by
  rw [State.readMem_storeBytes, if_neg h]

/-- Consecutive stores write the cells of their block: no other piece reads them. -/
theorem agreeOutside_storeBytes (s : State) (a : Nat) (bs : List Byte) :
    AgreeOutside { c | ∃ k < bs.length, c = .mem (a + k) } s (s.storeBytes a bs) := by
  intro c hc
  cases c with
  | mem a' =>
    have houtside : ¬(a ≤ a' ∧ a' < a + bs.length) := fun ⟨hle, hlt⟩ =>
      hc ⟨a' - a, by omega, congrArg Component.mem (by omega)⟩
    exact State.readMem_storeBytes_of_outside s houtside
  | _ => rfl

/-! ### Timers -/

/-- A timer falls by 1 and stays at 0, as the truncated subtraction of numbers does. -/
@[simp] theorem toNat_countDown (v : Byte) : (countDown v).toNat = v.toNat - 1 := by
  rw [countDown]
  split
  case isTrue hzero => rw [hzero]; rfl
  case isFalse hne =>
    have hle : 1#8 ≤ v := by bv_omega
    exact BitVec.toNat_sub_of_le hle

/-- The two timers are pieces of their own: no other piece reads them. -/
theorem agreeOutside_setDT_setST (s : State) (dt st : Byte) :
    AgreeOutside {.delay, .sound} s ((s.setDT dt).setST st) := by
  intro c hc
  cases c with
  | delay => exact absurd (.inl rfl) hc
  | sound => exact absurd (.inr rfl) hc
  | _ => rfl

/-! ### Keys -/

/-- `keys[k] <- pressed`: what an accepted keypress does (`transact_keypress`). -/
def State.setKey (s : State) (k : Fin 16) (pressed : Bool) : State :=
  { s with keys := s.keys.set k.val pressed k.isLt }

@[simp] theorem State.key_setKey_same (s : State) (k : Fin 16) (pressed : Bool) :
    (s.setKey k pressed).key k = pressed :=
  Vector.getElem_set_self k.isLt

theorem State.key_setKey_of_ne (s : State) {k j : Fin 16} (pressed : Bool) (h : j ≠ k) :
    (s.setKey k pressed).key j = s.key j :=
  Vector.getElem_set_ne k.isLt j.isLt (Fin.val_ne_of_ne h.symm)

/-- Each key is a piece of its own: no other piece reads it. -/
theorem agreeOutside_setKey (s : State) (k : Fin 16) (pressed : Bool) :
    AgreeOutside {.key k} s (s.setKey k pressed) := by
  intro c hc
  cases c with
  | key j =>
    have hne : j ≠ k := fun h => hc (congrArg Component.key h)
    exact State.key_setKey_of_ne s pressed hne
  | _ => rfl

/-! ### What each operation comes to -/

/-- R172: an image that fits is copied to 0x200 and up. -/
theorem transact_load_of_length_le {bytes : List Byte} (h : bytes.length ≤ 3584) (s : State) :
    transact (.load bytes) s = (s.storeBytes 0x200 bytes, .done) :=
  congrArg (settleOutcome s) (if_pos h)

/-- R175: a reset is always accepted. -/
@[simp] theorem transact_reset (s : State) : transact .reset s = (hostReset s, .done) := rfl

/-- R178 and R179: both timers count down, and the sound event is due when ST was 1. -/
theorem transact_tickTimer (s : State) :
    transact .tickTimer s =
      ((s.setDT (countDown s.DT)).setST (countDown s.ST), if s.ST.toNat = 1 then .sound else .done) := by
  have hdue : (tickTimer s).2 = true ↔ s.ST.toNat = 1 := beq_iff_eq.trans BitVec.toNat_inj.symm
  exact congrArg (Prod.mk _) (if_congr hdue rfl rfl)

/-- R181: a keypress of an index that names a key sets that key. -/
theorem transact_keypress (s : State) (k : Fin 16) (pressed : Bool) :
    transact (.keypress k.val pressed) s = (s.setKey k pressed, .done) :=
  congrArg (settleOutcome s) (dif_pos k.isLt)

/-- R177: the reply is the display, and the state stays. -/
@[simp] theorem transact_getDisplay (s : State) : transact .getDisplay s = (s, .display s.disp) := rfl

/-- R171: the operations of a sequence act one after the other. -/
theorem runHost_cons (op : HostOp) (ops : List HostOp) (s : State) :
    runHost (op :: ops) s =
      ((runHost ops (transact op s).1).1, (transact op s).2 :: (runHost ops (transact op s).1).2) := rfl

/-- R220 and R223: the state from which the first program after a reset starts. -/
theorem runHost_reset_load {bytes : List Byte} (h : bytes.length ≤ 3584) (s : State) :
    runHost [.reset, .load bytes] s = ((hostReset s).storeBytes 0x200 bytes, [.done, .done]) := by
  rw [runHost_cons, transact_reset, runHost_cons, transact_load_of_length_le h, runHost]

/-! ### The obligations -/

/-- Settles O52: an image that fits is one block of stores at 0x200, so the font below it stays as reset left it. -/
theorem loadCopiesTheImage : Obligations.LoadCopiesTheImage := by
  intro bytes s hfits
  refine ⟨?load, ?resetThenLoad⟩
  case load =>
    exact ⟨s.storeBytes 0x200 bytes, transact_load_of_length_le hfits s,
      fun _ hk => State.readMem_storeBytes_add s 0x200 bytes hk, agreeOutside_storeBytes s 0x200 bytes⟩
  case resetThenLoad =>
    have hfont (a : Nat) (ha : a < 80) : ((hostReset s).storeBytes 0x200 bytes).readMem a = s.font[a] := by
      have hbelow : ¬(0x200 ≤ a ∧ a < 0x200 + bytes.length) := by omega
      rw [State.readMem_storeBytes_of_outside _ hbelow]
      exact initialByte_of_lt s.font ha
    exact ⟨(hostReset s).storeBytes 0x200 bytes, runHost_reset_load hfits s, rfl, rfl,
      fun _ hk => State.readMem_storeBytes_add _ 0x200 bytes hk, hfont⟩

/-- Settles O53: each timer is counted down on its own, and the reply reads ST as it was. -/
theorem tickTimerCountsDown : Obligations.TickTimerCountsDown := by
  intro s
  exact ⟨(s.setDT (countDown s.DT)).setST (countDown s.ST), transact_tickTimer s, toNat_countDown s.DT,
    toNat_countDown s.ST, agreeOutside_setDT_setST s _ _⟩

/-- Settles O55: every index of `Fin 16` names a key, so the keypress is accepted and is one write of that key. -/
theorem keypressWritesOneKey : Obligations.KeypressWritesOneKey := by
  intro s k pressed
  exact ⟨s.setKey k pressed, transact_keypress s k pressed, State.key_setKey_same s k pressed,
    agreeOutside_setKey s k pressed⟩

/-- Settles O57: the grid is the display itself, and a pixel is its bit. -/
theorem getDisplayReadsOnly : Obligations.GetDisplayReadsOnly := by
  intro s
  exact ⟨s.disp, transact_getDisplay s, fun _ _ _ _ => rfl⟩

end Sys2Proof.Machine
end

section
/-! Reset from every state (spec/70_reset_and_hazards.md R220, R223). -/

namespace Sys2Proof.Machine

/-- Settles O47: a reset is accepted in every state with no reply, and beside FONT only the old state's draw
counter goes on, which is no field of the spec (R183). -/
theorem hostResetFromAnyState : Obligations.HostResetFromAnyState := by
  intro s
  exact ⟨hostReset s, transact_reset s, resetWith_agreeOutside_hostReset s⟩

end Sys2Proof.Machine
end

section
/-! Encoding (spec/30_encoding.md): the encoder and the decoder are inverse to each other, and the decoder follows the
table of R75. -/

namespace Sys2Proof

/-! ### A word from the numbers its fields have -/

theorem formatA_of_nib3 {op : Word16} {n3 : Nat} (h : (nib3 op).toNat = n3) :
    formatA (BitVec.ofNat 4 n3) (nnnField op) = op := by
  rw [← h, BitVec.ofNat_toNat, BitVec.setWidth_eq, formatA_fields]

theorem formatXI_of_nib3 {op : Word16} {n3 : Nat} (h : (nib3 op).toNat = n3) :
    formatXI (BitVec.ofNat 4 n3) (xField op) (nnField op) = op := by
  rw [← h, BitVec.ofNat_toNat, BitVec.setWidth_eq, formatXI_fields]

theorem formatXI_of_nib3_nnField {op : Word16} {n3 nn : Nat} (h : (nib3 op).toNat = n3)
    (hnn : (nnField op).toNat = nn) :
    formatXI (BitVec.ofNat 4 n3) (xField op) (BitVec.ofNat 8 nn) = op := by
  rw [← hnn, BitVec.ofNat_toNat, BitVec.setWidth_eq, formatXI_of_nib3 h]

theorem formatXY_of_nib3 {op : Word16} {n3 : Nat} (h : (nib3 op).toNat = n3) :
    formatXY (BitVec.ofNat 4 n3) (xField op) (yField op) (nib0 op) = op := by
  rw [← h, BitVec.ofNat_toNat, BitVec.setWidth_eq, formatXY_fields]

theorem formatXY_of_nib3_nib0 {op : Word16} {n3 n0 : Nat} (h : (nib3 op).toNat = n3) (h0 : (nib0 op).toNat = n0) :
    formatXY (BitVec.ofNat 4 n3) (xField op) (yField op) (BitVec.ofNat 4 n0) = op := by
  rw [← h0, BitVec.ofNat_toNat, BitVec.setWidth_eq, formatXY_of_nib3 h]

/-! ### The two round trips -/

theorem decodeWord_encode {i : Instr} (h : i.wellFormed = true) : decodeWord (encode i) = .ok i := by
  cases i with
  | nop | cls | ret => decide
  | jp | call | ldix | jpv0 => simp [encode, decodeWord, nib3_formatA, nnnField_formatA]
  | sei | snei | ldi | addi | rnd | skp | sknp | getdt | waitk | setdt | setst | addix | font | bcd | stm | ldm =>
    simp [encode, decodeWord, nib3_formatXI, xField_formatXI, nnField_formatXI]
  | ser | mov | or | and | xor | add | sub | shr | subn | shl | sner =>
    simp [encode, decodeWord, nib3_formatXY, xField_formatXY, yField_formatXY, nib0_formatXY]
  | drw x y n =>
    have hn : n < 16 := Nat.lt_succ_of_le (of_decide_eq_true h)
    simp [encode, decodeWord, nib3_formatXY, xField_formatXY, yField_formatXY, nField, nib0_formatXY,
      Nat.mod_eq_of_lt hn]

/-- Each arm of the decoder builds its instruction from the fields that put the word together again. The cases are the
top nibbles in order, 0 to F, and the arm that no nibble reaches. -/
theorem encode_of_decodeWord {op : Word16} {i : Instr} (h : decodeWord op = .ok i) :
    encode i = op ∧ i.wellFormed = true := by
  unfold decodeWord at h
  dsimp only at h
  split at h
  case h_1 => -- 0: the three fixed words
    have nat_op {n : Nat} (hop : op.toNat = n) : BitVec.ofNat 16 n = op := by
      rw [← hop, BitVec.ofNat_toNat, BitVec.setWidth_eq]
    split at h <;> cases h <;> exact ⟨nat_op ‹_›, rfl⟩
  case h_2 h3 | h_3 h3 | h_11 h3 | h_12 h3 => -- 1, 2, A, B: format A
    cases h
    exact ⟨formatA_of_nib3 h3, rfl⟩
  case h_4 h3 | h_5 h3 | h_7 h3 | h_8 h3 | h_13 h3 => -- 3, 4, 6, 7, C: format XI
    cases h
    exact ⟨formatXI_of_nib3 h3, rfl⟩
  case h_6 h3 | h_9 h3 | h_10 h3 => -- 5, 8, 9: format XY, told apart by the low nibble
    split at h <;> cases h <;> exact ⟨formatXY_of_nib3_nib0 h3 ‹_›, rfl⟩
  case h_14 h3 => -- D: format XYN
    cases h
    have hn : nField op ≤ 15 := Nat.le_of_lt_succ (nib0 op).isLt
    exact ⟨formatXY_of_nib3_nib0 h3 rfl, decide_eq_true hn⟩
  case h_15 h3 | h_16 h3 => -- E, F: told apart by the low byte
    split at h <;> cases h <;> exact ⟨formatXI_of_nib3_nnField h3 ‹_›, rfl⟩
  case h_17 => cases h

/-- The decoder gives an instruction exactly for the word that encodes it. -/
theorem decodeWord_eq_ok_iff {op : Word16} {i : Instr} :
    decodeWord op = .ok i ↔ encode i = op ∧ i.wellFormed = true :=
  ⟨encode_of_decodeWord, fun ⟨hop, hwf⟩ => hop ▸ decodeWord_encode hwf⟩

/-- Settles O1: the two bytes of the word are the word, and the word decodes to its instruction. -/
theorem decodeOfEncodeIsTheInstruction : Obligations.DecodeOfEncodeIsTheInstruction := by
  intro i rest hwf
  rw [decode_wordBytes, decodeWord_encode hwf]
  rfl

/-- Settles O2: the fields that the decoder reads, put back in the format of its arm, are the whole word. -/
theorem encodeOfDecodeIsTheWord : Obligations.EncodeOfDecodeIsTheWord :=
  fun _ _ => encode_of_decodeWord

end Sys2Proof
end

section
/-! The decoder against the table of R75 (spec/30_encoding.md section 2). -/

namespace Sys2Proof

open Laws.MatchesRow (mask_F000 mask_F00F mask_F0FF)

/-! ### A word under the mask of each format -/

theorem nib3_of_mask_F000 {op v : Word16} (h : op &&& 0xF000#16 = v) : (nib3 op).toNat = (nib3 v).toNat := by
  rw [← h, mask_F000, nib3_formatA]

theorem nibs_of_mask_F00F {op v : Word16} (h : op &&& 0xF00F#16 = v) :
    (nib3 op).toNat = (nib3 v).toNat ∧ (nib0 op).toNat = (nib0 v).toNat := by
  rw [← h, mask_F00F, nib3_formatXY, nib0_formatXY]
  exact ⟨rfl, rfl⟩

theorem nibs_of_mask_F0FF {op v : Word16} (h : op &&& 0xF0FF#16 = v) :
    (nib3 op).toNat = (nib3 v).toNat ∧ (nnField op).toNat = (nnField v).toNat := by
  rw [← h, mask_F0FF, nib3_formatXI, nnField_formatXI]
  exact ⟨rfl, rfl⟩

/-! ### Every word of a row encodes an instruction of the row -/

/-- A word that the row matches is the word of a well-formed instruction of the row's mnemonic. -/
def TableRow.Covered (row : TableRow) : Prop :=
  ∀ op : Word16, op &&& row.mask = row.value →
    ∃ i : Instr, encode i = op ∧ i.wellFormed = true ∧ i.mnemonic = row.mnemonic

theorem TableRow.covered_of_fixed {name : String} {v : Word16} (i : Instr)
    (hi : encode i = v ∧ i.wellFormed = true ∧ i.mnemonic = name) : TableRow.Covered ⟨name, 0xFFFF#16, v⟩ := by
  intro op h
  have hop : op = v := BitVec.and_allOnes.symm.trans h
  exact ⟨i, hop ▸ hi⟩

theorem TableRow.covered_of_formatA {name : String} {v : Word16} (f : BitVec 12 → Instr)
    (hf : ∀ nnn, encode (f nnn) = formatA (BitVec.ofNat 4 (nib3 v).toNat) nnn ∧ (f nnn).wellFormed = true ∧
      (f nnn).mnemonic = name) : TableRow.Covered ⟨name, 0xF000#16, v⟩ := by
  intro op h
  obtain ⟨henc, hwf, hname⟩ := hf (nnnField op)
  exact ⟨f (nnnField op), henc.trans (formatA_of_nib3 (nib3_of_mask_F000 h)), hwf, hname⟩

theorem TableRow.covered_of_formatXI {name : String} {v : Word16} (f : Reg → Byte → Instr)
    (hf : ∀ x nn, encode (f x nn) = formatXI (BitVec.ofNat 4 (nib3 v).toNat) x nn ∧ (f x nn).wellFormed = true ∧
      (f x nn).mnemonic = name) : TableRow.Covered ⟨name, 0xF000#16, v⟩ := by
  intro op h
  obtain ⟨henc, hwf, hname⟩ := hf (xField op) (nnField op)
  exact ⟨f (xField op) (nnField op), henc.trans (formatXI_of_nib3 (nib3_of_mask_F000 h)), hwf, hname⟩

theorem TableRow.covered_of_formatX {name : String} {v : Word16} (f : Reg → Instr)
    (hf : ∀ x, encode (f x) = formatXI (BitVec.ofNat 4 (nib3 v).toNat) x (BitVec.ofNat 8 (nnField v).toNat) ∧
      (f x).wellFormed = true ∧ (f x).mnemonic = name) : TableRow.Covered ⟨name, 0xF0FF#16, v⟩ := by
  intro op h
  obtain ⟨henc, hwf, hname⟩ := hf (xField op)
  obtain ⟨h3, hnn⟩ := nibs_of_mask_F0FF h
  exact ⟨f (xField op), henc.trans (formatXI_of_nib3_nnField h3 hnn), hwf, hname⟩

theorem TableRow.covered_of_formatXY {name : String} {v : Word16} (f : Reg → Reg → Instr)
    (hf : ∀ x y, encode (f x y) = formatXY (BitVec.ofNat 4 (nib3 v).toNat) x y (BitVec.ofNat 4 (nib0 v).toNat) ∧
      (f x y).wellFormed = true ∧ (f x y).mnemonic = name) : TableRow.Covered ⟨name, 0xF00F#16, v⟩ := by
  intro op h
  obtain ⟨henc, hwf, hname⟩ := hf (xField op) (yField op)
  obtain ⟨h3, h0⟩ := nibs_of_mask_F00F h
  exact ⟨f (xField op) (yField op), henc.trans (formatXY_of_nib3_nib0 h3 h0), hwf, hname⟩

/-- The one row of format XYN. -/
theorem TableRow.covered_drw : TableRow.Covered ⟨"DRW", 0xF000#16, 0xD000#16⟩ := by
  intro op h
  have hn : nField op ≤ 15 := Nat.le_of_lt_succ (nib0 op).isLt
  exact ⟨.drw (xField op) (yField op) (nField op), formatXY_of_nib3_nib0 (nib3_of_mask_F000 h) rfl,
    decide_eq_true hn, rfl⟩

open TableRow in
theorem opcodeTable_covered : ∀ row ∈ opcodeTable, row.Covered := by
  simp only [opcodeTable, List.cons_append, List.nil_append, List.forall_mem_cons]
  exact ⟨covered_of_fixed .nop ⟨rfl, rfl, rfl⟩, covered_of_fixed .cls ⟨rfl, rfl, rfl⟩,
    covered_of_fixed .ret ⟨rfl, rfl, rfl⟩, covered_of_formatA .jp fun _ => ⟨rfl, rfl, rfl⟩,
    covered_of_formatA .call fun _ => ⟨rfl, rfl, rfl⟩, covered_of_formatXI .sei fun _ _ => ⟨rfl, rfl, rfl⟩,
    covered_of_formatXI .snei fun _ _ => ⟨rfl, rfl, rfl⟩, covered_of_formatXY .ser fun _ _ => ⟨rfl, rfl, rfl⟩,
    covered_of_formatXI .ldi fun _ _ => ⟨rfl, rfl, rfl⟩, covered_of_formatXI .addi fun _ _ => ⟨rfl, rfl, rfl⟩,
    covered_of_formatXY .mov fun _ _ => ⟨rfl, rfl, rfl⟩, covered_of_formatXY .or fun _ _ => ⟨rfl, rfl, rfl⟩,
    covered_of_formatXY .and fun _ _ => ⟨rfl, rfl, rfl⟩, covered_of_formatXY .xor fun _ _ => ⟨rfl, rfl, rfl⟩,
    covered_of_formatXY .add fun _ _ => ⟨rfl, rfl, rfl⟩, covered_of_formatXY .sub fun _ _ => ⟨rfl, rfl, rfl⟩,
    covered_of_formatXY .shr fun _ _ => ⟨rfl, rfl, rfl⟩, covered_of_formatXY .subn fun _ _ => ⟨rfl, rfl, rfl⟩,
    covered_of_formatXY .shl fun _ _ => ⟨rfl, rfl, rfl⟩, covered_of_formatXY .sner fun _ _ => ⟨rfl, rfl, rfl⟩,
    covered_of_formatA .ldix fun _ => ⟨rfl, rfl, rfl⟩, covered_of_formatA .jpv0 fun _ => ⟨rfl, rfl, rfl⟩,
    covered_of_formatXI .rnd fun _ _ => ⟨rfl, rfl, rfl⟩, covered_drw,
    covered_of_formatX .skp fun _ => ⟨rfl, rfl, rfl⟩, covered_of_formatX .sknp fun _ => ⟨rfl, rfl, rfl⟩,
    covered_of_formatX .getdt fun _ => ⟨rfl, rfl, rfl⟩, covered_of_formatX .waitk fun _ => ⟨rfl, rfl, rfl⟩,
    covered_of_formatX .setdt fun _ => ⟨rfl, rfl, rfl⟩, covered_of_formatX .setst fun _ => ⟨rfl, rfl, rfl⟩,
    covered_of_formatX .addix fun _ => ⟨rfl, rfl, rfl⟩, covered_of_formatX .font fun _ => ⟨rfl, rfl, rfl⟩,
    covered_of_formatX .bcd fun _ => ⟨rfl, rfl, rfl⟩, covered_of_formatX .stm fun _ => ⟨rfl, rfl, rfl⟩,
    covered_of_formatX .ldm fun _ => ⟨rfl, rfl, rfl⟩, by simp⟩

/-! ### Every instruction has a row, and the mnemonic names it -/

theorem matchesRow (i : Instr) : Laws.MatchesRow.Statement i := by
  cases i
  open Laws.MatchesRow in
  exacts [nop, cls, ret, jp _, call _, sei _ _, snei _ _, ser _ _, ldi _ _, addi _ _, mov _ _, or _ _, and _ _,
    xor _ _, add _ _, sub _ _, shr _ _, subn _ _, shl _ _, sner _ _, ldix _, jpv0 _, rnd _ _, drw _ _ _, skp _,
    sknp _, getdt _, waitk _, setdt _, setst _, addix _, font _, bcd _, stm _, ldm _]

theorem TableRow.eq_of_mnemonic_eq {row row' : TableRow} (h : row ∈ opcodeTable) (h' : row' ∈ opcodeTable)
    (he : row.mnemonic = row'.mnemonic) : row = row' := by
  have hnodup : (opcodeTable.map TableRow.mnemonic).Nodup := by decide
  exact List.inj_on_of_nodup_map hnodup h h' he

/-- The row that has an instruction's mnemonic matches its word. -/
theorem TableRow.encode_and_mask {row : TableRow} (hrow : row ∈ opcodeTable) {i : Instr}
    (hi : i.mnemonic = row.mnemonic) : encode i &&& row.mask = row.value := by
  obtain ⟨row', hrow', hname, -, hmatch⟩ := matchesRow i
  obtain rfl : row' = row := TableRow.eq_of_mnemonic_eq hrow' hrow (hname.trans hi)
  exact beq_iff_eq.mp hmatch

/-- Settles O3: a word that a row matches is put together again from its fields as an instruction of the row, and the
row of an instruction's mnemonic matches its word. -/
theorem wordsOfARowAreItsInstruction : Obligations.WordsOfARowAreItsInstruction := by
  refine ⟨rfl, fun row hrow op => ⟨fun h => ?_, ?_⟩⟩
  · obtain ⟨i, hop, hwf, hname⟩ := opcodeTable_covered row hrow op h
    exact ⟨i, decodeWord_eq_ok_iff.mpr ⟨hop, hwf⟩, hname⟩
  · rintro ⟨i, hdec, hname⟩
    rw [← (encode_of_decodeWord hdec).1]
    exact TableRow.encode_and_mask hrow hname

end Sys2Proof
end

section
/-! The words that are no instruction (spec/30_encoding.md section 3), and one word of each family. -/

namespace Sys2Proof

/-! ### The fields as numbers -/

theorem toNat_nib3 (op : Word16) : (nib3 op).toNat = op.toNat / 4096 := by
  have hop := op.isLt
  rw [nib3, BitVec.extractLsb'_toNat, Nat.shiftRight_eq_div_pow]
  omega

theorem toNat_nib0 (op : Word16) : (nib0 op).toNat = op.toNat % 16 := by
  rw [nib0, BitVec.extractLsb'_toNat, Nat.shiftRight_zero]

theorem toNat_nnField (op : Word16) : (nnField op).toNat = op.toNat % 256 := by
  rw [nnField, BitVec.extractLsb'_toNat, Nat.shiftRight_zero]

/-- Settles O4: with the fields written as numbers, R76's procedure is a case split on the top nibble; six of its
sixteen cases look at the low nibble, the low byte or the word, and the other ten reject no word. -/
theorem rejectedWordsAreTheInvalidOnes : Obligations.RejectedWordsAreTheInvalidOnes := by
  intro op
  have hop := op.isLt
  have htop : op.toNat / 4096 < 16 := by omega
  unfold decodeWord
  simp only [toNat_nib3, toNat_nib0, toNat_nnField]
  generalize op.toNat / 4096 = top at *
  have hcases : (top = 0x0 ∨ top = 0x5 ∨ top = 0x9 ∨ top = 0xE ∨ top = 0xF) ∨ top = 0x8 ∨
      (top = 0x1 ∨ top = 0x2 ∨ top = 0x3 ∨ top = 0x4 ∨ top = 0x6 ∨ top = 0x7 ∨ top = 0xA ∨ top = 0xB ∨ top = 0xC ∨
        top = 0xD) := by omega
  obtain hfew | rfl | hevery := hcases
  · rcases hfew with rfl | rfl | rfl | rfl | rfl <;> simp only [true_and] <;> split <;> simp_all
  · have hlow : op.toNat % 16 < 16 := by omega
    generalize op.toNat % 16 = low at *
    interval_cases low <;> simp
  · rcases hevery with rfl | rfl | rfl | rfl | rfl | rfl | rfl | rfl | rfl | rfl <;> simp

/-- Settles O5: the seven words are evaluated. -/
theorem sampleWordsDecode : Obligations.SampleWordsDecode := by
  unfold Obligations.SampleWordsDecode
  decide

end Sys2Proof
end

section
/-! Taking a fault of one's own (spec/60_exceptions.md R191, R192). -/

namespace Sys2Proof.Machine

/-- The latch is a piece of its own: no other piece reads it. -/
theorem agreeOutside_raise (s : State) (cause : Cause) (addr op : Word16) :
    AgreeOutside {.latch} s (s.raise cause addr op) := by
  intro c hc
  cases c with
  | latch => exact absurd rfl hc
  | _ => rfl

/-- What an instruction does that raises a fault of its own. -/
theorem exec_latches {i : Instr} {s : State} {cause : Cause} (hexec : exec i s = trap cause i s) :
    ∃ t, exec i s = .next t ∧ t.fault = some ⟨cause, s.pc - 2#16, encode i⟩ ∧ AgreeOutside {.latch} s t :=
  ⟨s.raise cause s.fetchedFrom (encode i), hexec, rfl, agreeOutside_raise s _ _ _⟩

end Sys2Proof.Machine
end

section
/-! The call stack (spec/10_state.md section 6, spec/41_control_transfer.md): CALL and RET. -/

namespace Sys2Proof.Machine

/-! ### The stack with slot k as its top -/

/-- The stack after a push to slot k (`exec_call_of_slot`). -/
def State.pushed (s : State) (k : Fin 16) (v : Word16) : State :=
  { s with stack := s.stack.set k.val v k.isLt, sp := ⟨k.val + 1, Nat.succ_lt_succ k.isLt⟩ }

/-- The stack after a pop of slot k, whose value stays (`exec_ret_of_slot`). -/
def State.popped (s : State) (k : Fin 16) : State := { s with sp := ⟨k.val, Nat.lt_succ_of_lt k.isLt⟩ }

@[simp] theorem State.pushed_slot_same (s : State) (k : Fin 16) (v : Word16) : (s.pushed k v).slot k = v :=
  Vector.getElem_set_self k.isLt

theorem State.pushed_slot_of_ne (s : State) {k j : Fin 16} (v : Word16) (h : j ≠ k) :
    (s.pushed k v).slot j = s.slot j :=
  Vector.getElem_set_ne k.isLt j.isLt (Fin.val_ne_of_ne h.symm)

theorem agreeOutside_pushed_setPc (s : State) (k : Fin 16) (v a : Word16) :
    AgreeOutside {.pc, .stackPointer, .slot k} s ((s.pushed k v).setPc a) := by
  intro c hc
  cases c with
  | pc => exact absurd (.inl rfl) hc
  | stackPointer => exact absurd (.inr (.inl rfl)) hc
  | slot j =>
    have hne : j ≠ k := fun h => hc (.inr (.inr (congrArg Component.slot h)))
    exact State.pushed_slot_of_ne s v hne
  | _ => rfl

theorem agreeOutside_popped_setPc (s : State) (k : Fin 16) (a : Word16) :
    AgreeOutside {.pc, .stackPointer} s ((s.popped k).setPc a) := by
  intro c hc
  cases c with
  | pc => exact absurd (.inl rfl) hc
  | stackPointer => exact absurd (.inr rfl) hc
  | _ => rfl

/-! ### The meaning of each instruction -/

theorem exec_call_of_slot {s : State} {k : Fin 16} (h : s.sp.val = k.val) (nnn : BitVec 12) :
    exec (.call nnn) s = .next ((s.pushed k s.pc).setPc (addrOperand nnn)) := by
  change execCall nnn s = _
  rw [execCall, State.push_of_slot h]
  rfl

theorem exec_call_of_full {s : State} (h : s.sp.val = 16) (nnn : BitVec 12) :
    exec (.call nnn) s = trap .stackOverflow (.call nnn) s := by
  change execCall nnn s = _
  rw [execCall, State.push_of_full h]

theorem exec_ret_of_slot {s : State} {k : Fin 16} (h : s.sp.val = k.val + 1) :
    exec .ret s = .next ((s.popped k).setPc (s.slot k)) := by
  change execRet s = _
  rw [execRet, State.pop_of_slot h]
  rfl

theorem exec_ret_of_empty {s : State} (h : s.sp.val = 0) : exec .ret s = trap .stackUnderflow .ret s := by
  change execRet s = _
  rw [execRet, State.pop_of_empty h]

/-! ### The obligations -/

/-- Settles O18: a free slot takes pc before the jump, and a full stack raises the fault of R103. -/
theorem callPushesAndJumps : Obligations.CallPushesAndJumps := by
  intro s nnn
  refine ⟨fun k hk => ?_, fun hfull => exec_latches (exec_call_of_full hfull nnn)⟩
  exact ⟨(s.pushed k s.pc).setPc (addrOperand nnn), exec_call_of_slot hk nnn, State.pushed_slot_same s k s.pc, rfl,
    toNat_addrOperand nnn, agreeOutside_pushed_setPc s k s.pc _⟩

/-- Settles O19: the top slot goes to pc and keeps its value, and an empty stack raises the fault of R101. -/
theorem retPopsIntoPc : Obligations.RetPopsIntoPc := by
  intro s
  refine ⟨fun k hk => ?_, fun hempty => exec_latches (exec_ret_of_empty hempty)⟩
  exact ⟨(s.popped k).setPc (s.slot k), exec_ret_of_slot hk, rfl, rfl, agreeOutside_popped_setPc s k _⟩

/-- Settles O20: RET pops the slot that CALL has just pushed, so pc and sp come back and only the slot differs. -/
theorem callThenRetReturns : Obligations.CallThenRetReturns := by
  intro s nnn k hk
  let t := (s.pushed k s.pc).setPc (addrOperand nnn)
  have hret : exec .ret t = .next ((t.popped k).setPc (t.slot k)) := exec_ret_of_slot rfl
  refine ⟨t, (t.popped k).setPc (t.slot k), exec_call_of_slot hk nnn, hret, ?_⟩
  intro c hc
  cases c with
  | pc => exact State.pushed_slot_same s k s.pc
  | stackPointer => exact Fin.ext hk.symm
  | slot j =>
    have hne : j ≠ k := fun h => hc (congrArg Component.slot h)
    exact State.pushed_slot_of_ne s s.pc hne
  | _ => rfl

end Sys2Proof.Machine
end

section
/-! The skips on keys (spec/42_skips.md R115, R116): SKP and SKNP. -/

namespace Sys2Proof.Machine

theorem exec_skp_of_key {s : State} {x : Reg} {k : Fin 16} (h : (s.reg x).toNat = k.val) :
    exec (.skp x) s = .next (s.skipIf (s.key k)) := by
  change execSkp x s = _
  rw [execSkp, State.keyOperand_of_eq h]

theorem exec_sknp_of_key {s : State} {x : Reg} {k : Fin 16} (h : (s.reg x).toNat = k.val) :
    exec (.sknp x) s = .next (s.skipIf (!s.key k)) := by
  change execSknp x s = _
  rw [execSknp, State.keyOperand_of_eq h]

theorem exec_skp_of_gt {s : State} {x : Reg} (h : (s.reg x).toNat > 15) :
    exec (.skp x) s = trap .keyIndexOutOfRange (.skp x) s := by
  change execSkp x s = _
  rw [execSkp, State.keyOperand_of_gt h]

theorem exec_sknp_of_gt {s : State} {x : Reg} (h : (s.reg x).toNat > 15) :
    exec (.sknp x) s = trap .keyIndexOutOfRange (.sknp x) s := by
  change execSknp x s = _
  rw [execSknp, State.keyOperand_of_gt h]

/-- Settles O22: V[x] names a key cell and both are skips on it, or it names none and both raise R193's fault. -/
theorem keySkipsTestTheNamedKey : Obligations.KeySkipsTestTheNamedKey := by
  intro s x
  refine ⟨fun k hk => ⟨?skp, ?sknp⟩,
    fun hgt => ⟨exec_latches (exec_skp_of_gt hgt), exec_latches (exec_sknp_of_gt hgt)⟩⟩
  case skp => exact exec_skips_iff (exec_skp_of_key hk) Iff.rfl
  case sknp => exact exec_skips_iff (exec_sknp_of_key hk) (iff_of_eq (Bool.not_eq_true' _))

end Sys2Proof.Machine
end

section
/-! The arithmetic that writes a flag (spec/43_register_alu.md R127 to R131), the random byte and the glyph
address. -/

namespace Sys2Proof.Machine

/-! ### A result and its flag -/

theorem agreeOutside_setResultAndFlag (s : State) (x : Reg) (v : Byte) (flag : Bool) :
    AgreeOutside {.reg x, .reg vf} s (s.setResultAndFlag x v flag) := by
  intro c hc
  cases c with
  | reg q =>
    have hx : q ≠ x := fun h => hc (.inl (congrArg Component.reg h))
    have hvf : q ≠ vf := fun h => hc (.inr (congrArg Component.reg h))
    change (s.setResultAndFlag x v flag).reg q = s.reg q
    rw [State.reg_setResultAndFlag, if_neg hvf, if_neg hx]
  | _ => rfl

/-- What an instruction does whose whole meaning is to write a result to V[x] and then a flag to VF (R24): `r` and `f`
are the result and the flag as the numbers the spec names. -/
theorem exec_writes_result_and_flag {i : Instr} {s : State} {x : Reg} {v : Byte} {flag : Bool} {r f : Nat}
    (hexec : exec i s = .next (s.setResultAndFlag x v flag)) (hresult : v.toNat = r)
    (hflag : (flagByte flag).toNat = f) :
    ∃ t, exec i s = .next t ∧ (x ≠ vf → (t.reg x).toNat = r) ∧ (t.reg vf).toNat = f ∧
      AgreeOutside {.reg x, .reg vf} s t := by
  refine ⟨s.setResultAndFlag x v flag, hexec, fun hx => ?_, ?_, agreeOutside_setResultAndFlag s x v flag⟩
  · rw [State.reg_setResultAndFlag, if_neg hx, if_pos rfl, hresult]
  · rw [State.reg_setResultAndFlag, if_pos rfl, hflag]

theorem toNat_carry (a b : Byte) : (flagByte (carry a b)).toNat = if a.toNat + b.toNat > 255 then 1 else 0 := by
  simp only [toNat_flagByte, carry, decide_eq_true_eq]

theorem toNat_noBorrow (a b : Byte) : (flagByte (noBorrow a b)).toNat = if a.toNat < b.toNat then 0 else 1 := by
  simp only [toNat_flagByte, noBorrow, decide_eq_true_eq, ite_not]

/-! ### The meaning of each instruction -/

@[simp] theorem exec_add (x y : Reg) (s : State) :
    exec (.add x y) s = .next (s.setResultAndFlag x (sum8 (s.reg x) (s.reg y)) (carry (s.reg x) (s.reg y))) := rfl

@[simp] theorem exec_sub (x y : Reg) (s : State) :
    exec (.sub x y) s = .next (s.setResultAndFlag x (diff8 (s.reg x) (s.reg y)) (noBorrow (s.reg x) (s.reg y))) := rfl

@[simp] theorem exec_subn (x y : Reg) (s : State) :
    exec (.subn x y) s = .next (s.setResultAndFlag x (diff8 (s.reg y) (s.reg x)) (noBorrow (s.reg y) (s.reg x))) := rfl

@[simp] theorem exec_shr (x y : Reg) (s : State) :
    exec (.shr x y) s = .next (s.setResultAndFlag x (shr1 (s.reg x)) (lowBit (s.reg x))) := rfl

@[simp] theorem exec_shl (x y : Reg) (s : State) :
    exec (.shl x y) s = .next (s.setResultAndFlag x (shl1 (s.reg x)) (highBit (s.reg x))) := rfl

@[simp] theorem exec_rnd (x : Reg) (nn : Byte) (s : State) :
    exec (.rnd x nn) s = .next (s.takeDraw x nn (Config.draw s.draws)) := rfl

@[simp] theorem exec_font (x : Reg) (s : State) :
    exec (.font x) s = .next (s.setI (BitVec.ofNat 16 ((s.reg x).toNat * 5))) := rfl

theorem agreeOutside_takeDraw (s : State) (x : Reg) (nn r : Byte) :
    AgreeOutside {.reg x, .draws} s (s.takeDraw x nn r) := by
  intro c hc
  cases c with
  | reg q =>
    have hne : q ≠ x := fun h => hc (.inl (congrArg Component.reg h))
    exact State.reg_setReg_of_ne s (r &&& nn) hne
  | draws => exact absurd (.inr rfl) hc
  | _ => rfl

/-! ### The obligations -/

/-- Settles O25: the sum mod 256 and the carry. -/
theorem addGivesSumAndCarry : Obligations.AddGivesSumAndCarry := fun s x y =>
  exec_writes_result_and_flag (exec_add x y s) (toNat_sum8 (s.reg x) (s.reg y)) (toNat_carry (s.reg x) (s.reg y))

/-- Settles O26: the difference V[x] - V[y] mod 256 and its borrow, inverted. -/
theorem subGivesDifferenceAndNotBorrow : Obligations.SubGivesDifferenceAndNotBorrow := fun s x y =>
  exec_writes_result_and_flag (exec_sub x y s) (toNat_diff8 (s.reg x) (s.reg y)) (toNat_noBorrow (s.reg x) (s.reg y))

/-- Settles O27: the difference V[y] - V[x] mod 256 and its borrow, inverted. -/
theorem subnGivesReverseDifference : Obligations.SubnGivesReverseDifference := fun s x y =>
  exec_writes_result_and_flag (exec_subn x y s) (toNat_diff8 (s.reg y) (s.reg x)) (toNat_noBorrow (s.reg y) (s.reg x))

/-- Settles O28: the half and the bit shifted out on the right. -/
theorem shrHalvesAndKeepsTheLowBit : Obligations.ShrHalvesAndKeepsTheLowBit := fun s x y =>
  exec_writes_result_and_flag (exec_shr x y s) (toNat_shr1 (s.reg x)) (toNat_lowBit (s.reg x))

/-- Settles O29: the double mod 256 and the bit shifted out on the left. -/
theorem shlDoublesAndKeepsTheHighBit : Obligations.ShlDoublesAndKeepsTheHighBit := fun s x y =>
  exec_writes_result_and_flag (exec_shl x y s) (toNat_shl1 (s.reg x)) (toNat_highBit (s.reg x))

/-- Settles O30: the byte drawn is masked bit by bit, and the counter moves on by the one draw. -/
theorem rndMasksOneDraw : Obligations.RndMasksOneDraw := by
  intro s x nn
  let r := Config.draw s.draws
  have hreg : (s.takeDraw x nn r).reg x = r &&& nn := by rw [State.reg_takeDraw, if_pos rfl]
  have hmasked (j : Nat) (hj : nn.getLsbD j = false) : ((s.takeDraw x nn r).reg x).getLsbD j = false := by
    rw [hreg, BitVec.getLsbD_and, hj, Bool.and_false]
  exact ⟨s.takeDraw x nn r, exec_rnd x nn s, hreg, hmasked, rfl, agreeOutside_takeDraw s x nn r⟩

/-- Settles O33: five times a byte is far below 65536, so I holds the product itself. -/
theorem fontPointsAtFiveTimesVx : Obligations.FontPointsAtFiveTimesVx := by
  intro s x
  have hfits : (s.reg x).toNat * 5 < 2 ^ 16 := by have := (s.reg x).isLt; omega
  have hindex : (BitVec.ofNat 16 ((s.reg x).toNat * 5)).toNat = (s.reg x).toNat * 5 := by
    rw [BitVec.toNat_ofNat, Nat.mod_eq_of_lt hfits]
  exact ⟨s.setI _, exec_font x s, hindex, agreeOutside_setI s _⟩

end Sys2Proof.Machine
end

section
/-! Two states that agree in a piece. -/

namespace Sys2Proof.Machine

theorem Component.same_trans {c : Component} {s t u : State} (h : c.same s t) (h' : c.same t u) : c.same s u := by
  cases c with
  | _ => exact Eq.trans h' h

end Sys2Proof.Machine
end

section
/-! Loads and stores at I (spec/44_index_memory.md R143 to R146): BCD, STM and LDM. -/

namespace Sys2Proof.Machine

/-! ### The range of an access and its cells -/

/-- The highest address of an access of n + 1 bytes is I + n (R57). -/
theorem State.dataInRange_succ_iff (s : State) (n : Nat) : s.dataInRange (n + 1) = true ↔ s.I.toNat + n ≤ 0xFFF := by
  rw [State.dataInRange_iff]
  omega

theorem agreeOutside_storeBytes_index (s : State) {bs : List Byte} {count : Nat} (h : bs.length = count) :
    AgreeOutside (s.dataCells count) s (s.storeBytes s.I.toNat bs) :=
  h ▸ agreeOutside_storeBytes s s.I.toNat bs

theorem agreeOutside_loadRegsUpTo (s : State) (x : Reg) :
    AgreeOutside { c | ∃ k ≤ x, c = .reg k } s (s.loadRegsUpTo x) := by
  intro c hc
  cases c with
  | reg q =>
    have hgt : ¬ q ≤ x := fun h => hc ⟨q, h, rfl⟩
    exact (State.reg_loadRegsUpTo s x q).trans (if_neg hgt)
  | _ => simp [Component.same]

/-! ### The meaning of each instruction -/

theorem exec_bcd_of_le {s : State} (h : s.I.toNat + 2 ≤ 0xFFF) (x : Reg) :
    exec (.bcd x) s = .next (s.storeBytes s.I.toNat (decimalDigits (s.reg x))) :=
  if_pos ((s.dataInRange_succ_iff 2).mpr h)

theorem exec_bcd_of_gt {s : State} (h : s.I.toNat + 2 > 0xFFF) (x : Reg) :
    exec (.bcd x) s = trap .memoryOutOfBounds (.bcd x) s :=
  if_neg fun hin => Nat.not_le_of_lt h ((s.dataInRange_succ_iff 2).mp hin)

theorem exec_stm_of_le {s : State} {x : Reg} (h : s.I.toNat + x.val ≤ 0xFFF) :
    exec (.stm x) s = .next (s.storeBytes s.I.toNat (s.regsUpTo x)) :=
  if_pos ((s.dataInRange_succ_iff x.val).mpr h)

theorem exec_stm_of_gt {s : State} {x : Reg} (h : s.I.toNat + x.val > 0xFFF) :
    exec (.stm x) s = trap .memoryOutOfBounds (.stm x) s :=
  if_neg fun hin => Nat.not_le_of_lt h ((s.dataInRange_succ_iff x.val).mp hin)

theorem exec_ldm_of_le {s : State} {x : Reg} (h : s.I.toNat + x.val ≤ 0xFFF) :
    exec (.ldm x) s = .next (s.loadRegsUpTo x) :=
  if_pos ((s.dataInRange_succ_iff x.val).mpr h)

theorem exec_ldm_of_gt {s : State} {x : Reg} (h : s.I.toNat + x.val > 0xFFF) :
    exec (.ldm x) s = trap .memoryOutOfBounds (.ldm x) s :=
  if_neg fun hin => Nat.not_le_of_lt h ((s.dataInRange_succ_iff x.val).mp hin)

/-! ### The obligations -/

/-- Settles O34: the digits are stored as one block at I, and the base-10 digits of a byte make the byte. -/
theorem bcdStoresThreeDigits : Obligations.BcdStoresThreeDigits := by
  intro s x
  refine ⟨fun hle => ?stores, fun hgt => exec_latches (exec_bcd_of_gt hgt x)⟩
  case stores =>
    let t := s.storeBytes s.I.toNat (decimalDigits (s.reg x))
    have hread {k : Nat} (hk : k < 3) : t.readMem (s.I.toNat + k) = (decimalDigits (s.reg x))[k] :=
      s.readMem_storeBytes_add s.I.toNat (decimalDigits (s.reg x)) hk
    have hhundreds : (t.readMem s.I.toNat).toNat = (s.reg x).toNat / 100 % 256 :=
      congrArg BitVec.toNat (hread (k := 0) (by decide))
    have htens : (t.readMem (s.I.toNat + 1)).toNat = (s.reg x).toNat / 10 % 10 % 256 :=
      congrArg BitVec.toNat (hread (k := 1) (by decide))
    have hones : (t.readMem (s.I.toNat + 2)).toNat = (s.reg x).toNat % 10 % 256 :=
      congrArg BitVec.toNat (hread (k := 2) (by decide))
    have hbyte : (s.reg x).toNat < 256 := (s.reg x).isLt
    refine ⟨t, exec_bcd_of_le hle x, ?_, ?_, ?_, ?_, agreeOutside_storeBytes_index s rfl⟩ <;> omega

/-- Settles O35: the registers V[0] to V[x] are stored as one block at I. -/
theorem stmStoresTheRegisters : Obligations.StmStoresTheRegisters := by
  intro s x
  refine ⟨fun hle => ?stores, fun hgt => exec_latches (exec_stm_of_gt hgt)⟩
  case stores =>
    have hread (k : Reg) (hk : k ≤ x) :
        (s.storeBytes s.I.toNat (s.regsUpTo x)).readMem (s.I.toNat + k.val) = s.reg k := by
      have hlen : k.val < (s.regsUpTo x).length := (s.length_regsUpTo x).symm ▸ Nat.lt_succ_of_le hk
      rw [State.readMem_storeBytes_add s _ _ hlen, List.getElem_eq_getD 0#8, State.getD_regsUpTo s x k hk]
    exact ⟨_, exec_stm_of_le hle, hread, agreeOutside_storeBytes_index s (s.length_regsUpTo x)⟩

/-- Settles O36: each register up to x is read from its own byte, and the others are kept. -/
theorem ldmLoadsTheRegisters : Obligations.LdmLoadsTheRegisters := by
  intro s x
  refine ⟨fun hle => ?loads, fun hgt => exec_latches (exec_ldm_of_gt hgt)⟩
  case loads =>
    exact ⟨s.loadRegsUpTo x, exec_ldm_of_le hle, fun k hk => (s.reg_loadRegsUpTo x k).trans (if_pos hk),
      agreeOutside_loadRegsUpTo s x⟩

/-- Settles O37: STM keeps I, so LDM reads back the bytes that hold the registers; it writes nothing but them. -/
theorem stmThenLdmGivesTheRegistersBack : Obligations.StmThenLdmGivesTheRegistersBack := by
  intro s x hle
  obtain ⟨t, hstm, hstored, hframe⟩ := (stmStoresTheRegisters s x).1 hle
  have kept {c : Component} (hc : ∀ a, c ≠ .mem a) : c.same s t :=
    hframe c fun ⟨k, _, hmem⟩ => hc _ hmem
  have hI : t.I = s.I := kept (c := .index) (by simp)
  obtain ⟨u, hldm, hloaded, hframe'⟩ := (ldmLoadsTheRegisters t x).1 (hI ▸ hle)
  refine ⟨t, u, hstm, hldm, fun c hc => ?_⟩
  by_cases hreg : ∃ k ≤ x, c = .reg k
  · obtain ⟨k, hk, rfl⟩ := hreg
    exact (hloaded k hk).trans (hI ▸ hstored k hk)
  · exact Component.same_trans (hframe c hc) (hframe' c hreg)

/-- Settles O38: STM keeps pc, and the two bytes of the word at pc are among those it stores. -/
theorem storeIsSeenByTheNextFetch : Obligations.StoreIsSeenByTheNextFetch := by
  intro s x k j hle hj hjx hpc
  obtain ⟨t, hstm, hstored, hframe⟩ := (stmStoresTheRegisters s x).1 hle
  have hpc' : t.pc = s.pc := hframe .pc (by simp [State.dataCells])
  have hkx : k ≤ x := le_trans (Fin.le_def.mpr (by omega)) hjx
  have hlow : s.I.toNat + k.val + 1 = s.I.toNat + j.val := by omega
  refine ⟨t, hstm, ?_⟩
  rw [State.toNat_fetchWord, hpc', hpc, hstored k hkx, hlow, hstored j hjx]

end Sys2Proof.Machine
end

section
/-! The display (spec/45_display.md R151, R152): DRW toggles each cell of its sprite once. -/

namespace Sys2Proof.Machine

/-! ### The cells of a sprite are distinct -/

theorem spriteCell_lt (vx vy : Byte) (row col : Nat) : spriteCell vx vy row col < 2048 := by
  simp only [spriteCell, Config.displayWidth, Config.displayHeight]
  omega

/-- A sprite is narrower and lower than the display, so no two of its cells wrap onto each other. -/
theorem spriteCell_inj {vx vy : Byte} {row col row' col' : Nat} (hrow : row < 15) (hcol : col < 8) (hrow' : row' < 15)
    (hcol' : col' < 8) (h : spriteCell vx vy row col = spriteCell vx vy row' col') : row = row' ∧ col = col' := by
  simp only [spriteCell, Config.displayWidth, Config.displayHeight] at h
  omega

theorem nodup_columnCells {vx vy : Byte} {row : Nat} (b : Byte) (hrow : row < 15) {col left : Nat}
    (hcol : col + left ≤ 8) : (columnCells vx vy row b col left).Nodup := by
  induction left generalizing col with
  | zero => exact List.nodup_nil
  | succ left ih =>
    have hnew : spriteCell vx vy row col ∉ columnCells vx vy row b (col + 1) left := by
      intro hmem
      obtain ⟨j, hlo, hhi, -, heq⟩ := mem_columnCells.mp hmem
      have := spriteCell_inj hrow (by omega) hrow (by omega) heq
      omega
    have hrest := ih (col := col + 1) (by omega)
    unfold columnCells
    split
    · exact List.nodup_cons.mpr ⟨hnew, hrest⟩
    · exact hrest

theorem nodup_rowCells {vx vy : Byte} {row : Nat} {bs : List Byte} (hrow : row + bs.length ≤ 15) :
    (rowCells vx vy row bs).Nodup := by
  induction bs generalizing row with
  | nil => exact List.nodup_nil
  | cons b bs ih =>
    rw [List.length_cons] at hrow
    refine List.nodup_append'.mpr ⟨nodup_columnCells b (by omega) (by omega), ih (by omega), ?_⟩
    intro k hfirst hrest
    obtain ⟨j, -, hj, -, rfl⟩ := mem_columnCells.mp hfirst
    obtain ⟨i, hi, j', hj', -, heq⟩ := mem_rowCells.mp hrest
    have := spriteCell_inj (by omega) hj' (by omega) (by omega) heq
    omega

/-! ### The sprite at I -/

/-- The cells that the n-row sprite at I covers with a set bit, in drawing order (`mem_spriteCells`). -/
def State.spriteCells (s : State) (x y : Reg) (n : Nat) : List Nat :=
  rowCells (s.reg x) (s.reg y) 0 (s.dataBytes n)

theorem State.length_dataBytes (s : State) (n : Nat) : (s.dataBytes n).length = n := Memory.length_readBytes _ _ _ _

theorem State.mem_spriteCells {s : State} {x y : Reg} {n k : Nat} :
    k ∈ s.spriteCells x y n ↔ s.spriteCovers x y n k := by
  have hbyte {i : Nat} (hi : i < n) : (s.dataBytes n).getD i 0#8 = s.readMem (s.dataAddr i) :=
    Memory.getD_readBytes s.font s.mem (s.dataAddr 0) n i hi 0#8
  rw [State.spriteCells, mem_rowCells, State.length_dataBytes]
  refine exists_congr fun i => and_congr_right fun hi => ?_
  rw [hbyte hi, Nat.zero_add]
  rfl

/-- The display and the collision after the sprite is drawn (`exec_drw_of_inRange`). -/
def State.drawn (s : State) (x y : Reg) (n : Nat) : Canvas :=
  (Canvas.mk s.disp false).toggleAll (s.spriteCells x y n)

theorem State.drawn_spec (s : State) (x y : Reg) {n : Nat} (hn : n ≤ 15) :
    (∀ k, (s.drawn x y n).disp.getLsbD k = (s.pixel k ^^ decide (k ∈ s.spriteCells x y n))) ∧
    (s.drawn x y n).collision = (s.spriteCells x y n).any s.pixel := by
  have hnodup : (s.spriteCells x y n).Nodup := nodup_rowCells (by rw [State.length_dataBytes]; omega)
  have hlt : ∀ k ∈ s.spriteCells x y n, k < 2048 := by
    intro k hk
    obtain ⟨row, -, col, -, -, rfl⟩ := State.mem_spriteCells.mp hk
    exact spriteCell_lt _ _ row col
  exact Canvas.toggleAll_spec (Canvas.mk s.disp false) (s.spriteCells x y n) hnodup hlt

theorem State.drawn_of_covered {s : State} {x y : Reg} {n k : Nat} (hn : n ≤ 15) (h : s.spriteCovers x y n k) :
    (s.drawn x y n).disp.getLsbD k = !s.pixel k := by
  rw [(s.drawn_spec x y hn).1, decide_eq_true (State.mem_spriteCells.mpr h), Bool.xor_true]

theorem State.drawn_of_not_covered {s : State} {x y : Reg} {n k : Nat} (hn : n ≤ 15) (h : ¬ s.spriteCovers x y n k) :
    (s.drawn x y n).disp.getLsbD k = s.pixel k := by
  rw [(s.drawn_spec x y hn).1, decide_eq_false (mt State.mem_spriteCells.mp h), Bool.xor_false]

theorem State.drawn_collision_iff {s : State} {x y : Reg} {n : Nat} (hn : n ≤ 15) :
    (s.drawn x y n).collision = true ↔ ∃ k, s.spriteCovers x y n k ∧ s.pixel k = true := by
  simp only [(s.drawn_spec x y hn).2, List.any_eq_true, State.mem_spriteCells]

/-! ### The meaning of DRW -/

/-- The state after a sprite that is in memory is drawn (`exec_drw_of_inRange`). -/
def State.afterDraw (s : State) (x y : Reg) (n : Nat) : State :=
  (s.setDisp (s.drawn x y n).disp).setReg vf (flagByte (s.drawn x y n).collision)

theorem State.afterDraw_reg_vf (s : State) (x y : Reg) (n : Nat) :
    (s.afterDraw x y n).reg vf = flagByte (s.drawn x y n).collision :=
  State.reg_setReg_same _ vf _

theorem agreeOutside_afterDraw (s : State) (x y : Reg) {n : Nat} (hn : n ≤ 15) :
    AgreeOutside { c | c = .reg vf ∨ ∃ k, s.spriteCovers x y n k ∧ c = .pixel k } s (s.afterDraw x y n) := by
  intro c hc
  cases c with
  | reg q =>
    have hne : q ≠ vf := fun h => hc (.inl (congrArg Component.reg h))
    exact State.reg_setReg_of_ne _ _ hne
  | pixel k => exact State.drawn_of_not_covered hn fun h => hc (.inr ⟨k, h, rfl⟩)
  | _ => rfl

theorem exec_drw_of_inRange {s : State} {n : Nat} (h : n = 0 ∨ s.I.toNat + n - 1 ≤ 0xFFF) (x y : Reg) :
    exec (.drw x y n) s = .next (s.afterDraw x y n) := by
  change execDrw x y n s = _
  rw [execDrw, if_pos ((s.dataInRange_iff n).mpr h), Canvas.drawRows_eq]
  rfl

theorem exec_drw_of_gt {s : State} {n : Nat} (h : 0 < n ∧ s.I.toNat + n - 1 > 0xFFF) (x y : Reg) :
    exec (.drw x y n) s = trap .memoryOutOfBounds (.drw x y n) s :=
  if_neg fun hin => by
    have := (s.dataInRange_iff n).mp hin
    omega

/-! ### The obligations -/

/-- Settles O41: the two coordinates of a cell are read back from its index, and neither wraps within a sprite. -/
theorem spriteCellsAreDistinct : Obligations.SpriteCellsAreDistinct := fun vx vy row col _ _ hrow hcol hrow' hcol' =>
  ⟨spriteCell_lt vx vy row col, spriteCell_inj hrow hcol hrow' hcol'⟩

/-- Settles O40: DRW toggles a list of distinct cells, the covered ones, so each is inverted once. -/
theorem drwXorsTheSprite : Obligations.DrwXorsTheSprite := by
  intro s x y n hn
  refine ⟨fun hin => ?draws, fun hgt => exec_latches (exec_drw_of_gt hgt x y)⟩
  case draws =>
    have hlit (h : ∃ k, s.spriteCovers x y n k ∧ s.pixel k = true) : (s.afterDraw x y n).reg vf = 0x01#8 := by
      rw [State.afterDraw_reg_vf, (State.drawn_collision_iff hn).mpr h]
      rfl
    have hunlit (h : ¬∃ k, s.spriteCovers x y n k ∧ s.pixel k = true) : (s.afterDraw x y n).reg vf = 0x00#8 := by
      rw [State.afterDraw_reg_vf, Bool.eq_false_iff.mpr (mt (State.drawn_collision_iff hn).mp h)]
      rfl
    exact ⟨s.afterDraw x y n, exec_drw_of_inRange hin x y, fun k hk => State.drawn_of_covered hn hk, hlit, hunlit,
      agreeOutside_afterDraw s x y hn⟩

/-- A state that has the same sprite bytes, I and origin registers covers the same cells. -/
theorem State.spriteCovers_congr {s t : State} {x y : Reg} {n k : Nat} (hmem : ∀ a, t.readMem a = s.readMem a)
    (hI : t.I = s.I) (hx : t.reg x = s.reg x) (hy : t.reg y = s.reg y) :
    t.spriteCovers x y n k ↔ s.spriteCovers x y n k := by
  simp only [State.spriteCovers, State.spriteBit, State.dataAddr, hmem, hI, hx, hy]

/-- Settles O42: the first DRW keeps what the second reads, so the second inverts the same cells again; where none was
lit, the second finds every covered cell lit. -/
theorem drawingTwiceIsTheIdentity : Obligations.DrawingTwiceIsTheIdentity := by
  intro s x y n hn hx hy hin
  obtain ⟨t, hfirst, hinv, -, hunlit, hframe⟩ := (drwXorsTheSprite s x y n hn).1 hin
  have hI : t.I = s.I := hframe .index (by simp)
  have hcovers (k : Nat) : t.spriteCovers x y n k ↔ s.spriteCovers x y n k :=
    State.spriteCovers_congr (fun a => hframe (.mem a) (by simp)) hI (hframe (.reg x) (by simpa using hx))
      (hframe (.reg y) (by simpa using hy))
  obtain ⟨u, hsecond, hinv', hlit', hunlit', hframe'⟩ := (drwXorsTheSprite t x y n hn).1 (hI ▸ hin)
  refine ⟨t, u, hfirst, hsecond, BitVec.eq_of_getLsbD_eq fun k _ => ?back, fun hdark => ⟨?vfFirst, ?vfSecond⟩⟩
  case back =>
    change u.pixel k = s.pixel k
    by_cases hk : s.spriteCovers x y n k
    · rw [hinv' k ((hcovers k).mpr hk), hinv k hk, Bool.not_not]
    · have hsame : t.pixel k = s.pixel k := hframe (.pixel k) (by simpa using hk)
      have hsame' : u.pixel k = t.pixel k := hframe' (.pixel k) (by simpa using mt (hcovers k).mp hk)
      exact hsame'.trans hsame
  case vfFirst =>
    exact hunlit fun ⟨k, hk, hpix⟩ => Bool.false_ne_true ((hdark k hk).symm.trans hpix)
  case vfSecond =>
    have hlitBySprite (k : Nat) (hk : s.spriteCovers x y n k) : t.pixel k = true := by
      rw [hinv k hk, hdark k hk, Bool.not_false]
    constructor
    · intro hvf
      by_contra hnone
      have hzero := hunlit' fun ⟨k, hk, _⟩ => hnone ⟨k, (hcovers k).mp hk⟩
      exact absurd (hzero.symm.trans hvf) (by decide)
    · rintro ⟨k, hk⟩
      exact hlit' ⟨k, (hcovers k).mpr hk, hlitBySprite k hk⟩

end Sys2Proof.Machine
end

section
/-! A tick that waits for a key (spec/46_timers_keys.md R161). -/

namespace Sys2Proof.Machine

/-- The way back that a waiting WAITK takes undoes the advance of its fetch. -/
theorem State.setPc_back_advance (s : State) : s.advance.setPc (s.advance.pc - 2#16) = s := by
  rw [State.advance_pc, BitVec.add_sub_cancel]
  rfl

/-- Settles O45: WAITK with no key pressed only moves pc back, to where fetch had advanced it from. -/
theorem waitingTickChangesNothing : Obligations.WaitingTickChangesNothing := by
  intro s x hrun hpc hdec hnone
  have hfirst : s.advance.firstPressed = none := State.firstPressed_eq_none.mpr hnone
  rw [step_of_decode hrun hpc hdec, exec_waitk_of_firstPressed_eq_none x hfirst, State.setPc_back_advance]

end Sys2Proof.Machine
end

section
/-! What executing an instruction comes to, for all 35: its own fault, or a completion within its frame
(spec/40_tick_cycle.md section 2, spec/60_exceptions.md section 1). -/

namespace Sys2Proof.Machine

theorem AgreeOutside.mono {changed changed' : Set Component} {s t : State} (h : AgreeOutside changed s t)
    (hsub : changed ⊆ changed') : AgreeOutside changed' s t :=
  fun c hc => h c fun hmem => hc (hsub hmem)

theorem next_unique {o : Host.Outcome State Fault Refusal} {t u : State} (ht : o = .next t) (hu : o = .next u) :
    t = u :=
  Host.Outcome.next.inj (ht.symm.trans hu)

/-! ### An own fault -/

/-- An own fault is a test of one condition: where the condition is met, the instruction raises its one cause. -/
theorem exec_of_faultTest {i : Instr} {s : State} {p : Prop} [Decidable p] {own cause : Cause}
    (hexec : p → exec i s = trap own i s) (h : (if p then some own else none) = some cause) :
    exec i s = trap cause i s := by
  obtain ⟨hp, ⟨⟩⟩ := Option.ite_none_right_eq_some.mp h
  exact hexec hp

/-- An instruction whose fault condition holds raises that fault. -/
theorem exec_of_ownFault {i : Instr} {s : State} {cause : Cause} (h : ownFault i s = some cause) :
    exec i s = trap cause i s := by
  cases i with
  | call nnn => exact exec_of_faultTest (fun hfull => exec_call_of_full hfull nnn) h
  | ret => exact exec_of_faultTest exec_ret_of_empty h
  | skp => exact exec_of_faultTest exec_skp_of_gt h
  | sknp => exact exec_of_faultTest exec_sknp_of_gt h
  | drw x y n => exact exec_of_faultTest (fun hgt => exec_drw_of_gt hgt x y) h
  | bcd x => exact exec_of_faultTest (fun hgt => exec_bcd_of_gt hgt x) h
  | stm => exact exec_of_faultTest exec_stm_of_gt h
  | ldm => exact exec_of_faultTest exec_ldm_of_gt h
  | _ => cases h

/-! ### No own fault -/

theorem exists_free_slot {s : State} {nnn : BitVec 12} (h : ownFault (.call nnn) s = none) :
    ∃ k : Fin 16, s.sp.val = k.val := by
  have hne : s.sp.val ≠ 16 := by simpa [ownFault] using h
  exact s.sp_cases.2.resolve_left hne

theorem exists_top_slot {s : State} (h : ownFault .ret s = none) : ∃ k : Fin 16, s.sp.val = k.val + 1 := by
  have hne : s.sp.val ≠ 0 := by simpa [ownFault] using h
  exact s.sp_cases.1.resolve_left hne

/-- The two key skips have one fault condition. -/
theorem exists_key {s : State} {x : Reg} (h : ownFault (.skp x) s = none) : ∃ k : Fin 16, (s.reg x).toNat = k.val := by
  have hle : (s.reg x).toNat ≤ 15 := by simpa [ownFault] using h
  exact ⟨⟨(s.reg x).toNat, Nat.lt_succ_of_le hle⟩, rfl⟩

theorem sprite_inRange {s : State} {x y : Reg} {n : Nat} (h : ownFault (.drw x y n) s = none) :
    n = 0 ∨ s.I.toNat + n - 1 ≤ 0xFFF := by
  have hnot : ¬(0 < n ∧ s.I.toNat + n - 1 > 0xFFF) := by simpa [ownFault] using h
  omega

theorem digits_inRange {s : State} {x : Reg} (h : ownFault (.bcd x) s = none) : s.I.toNat + 2 ≤ 0xFFF := by
  simpa [ownFault] using h

/-- STM and LDM have one fault condition. -/
theorem regs_inRange {s : State} {x : Reg} (h : ownFault (.stm x) s = none) : s.I.toNat + x.val ≤ 0xFFF := by
  simpa [ownFault] using h

/-- A well-formed instruction whose fault condition fails completes, and changes only the pieces the spec's tables
give it. -/
theorem exec_completes {i : Instr} {s : State} (hwf : i.wellFormed = true) (h : ownFault i s = none) :
    ∃ t, exec i s = .next t ∧ AgreeOutside (effects i s) s t := by
  cases i with
  | nop => exact ⟨s, exec_nop s, agreeOutside_refl _ s⟩
  | cls => exact ⟨_, exec_cls s, agreeOutside_setDisp s _⟩
  | ret =>
    obtain ⟨k, hk⟩ := exists_top_slot h
    exact ⟨_, exec_ret_of_slot hk, agreeOutside_popped_setPc s k _⟩
  | call nnn =>
    obtain ⟨k, hk⟩ := exists_free_slot h
    refine ⟨_, exec_call_of_slot hk nnn, (agreeOutside_pushed_setPc s k _ _).mono ?_⟩
    rintro c (rfl | rfl | rfl)
    · exact .inl (.inl rfl)
    · exact .inl (.inr rfl)
    · exact .inr ⟨k, hk.symm, rfl⟩
  | jp | jpv0 => exact ⟨_, rfl, agreeOutside_setPc s _⟩
  | sei | snei | ser | sner => exact ⟨_, rfl, agreeOutside_skipIf s _⟩
  | skp x =>
    obtain ⟨k, hk⟩ := exists_key h
    exact ⟨_, exec_skp_of_key hk, agreeOutside_skipIf s _⟩
  | sknp x =>
    obtain ⟨k, hk⟩ := exists_key h
    exact ⟨_, exec_sknp_of_key hk, agreeOutside_skipIf s _⟩
  | ldi | addi | mov | or | and | xor | getdt => exact ⟨_, rfl, agreeOutside_setReg s _ _⟩
  | add | sub | shr | subn | shl => exact ⟨_, rfl, agreeOutside_setResultAndFlag s _ _ _⟩
  | rnd => exact ⟨_, rfl, agreeOutside_takeDraw s _ _ _⟩
  | ldix | addix | font => exact ⟨_, rfl, agreeOutside_setI s _⟩
  | drw x y n =>
    exact ⟨_, exec_drw_of_inRange (sprite_inRange h) x y, agreeOutside_afterDraw s x y (of_decide_eq_true hwf)⟩
  | waitk x =>
    cases hfirst : s.firstPressed with
    | some k =>
      exact ⟨_, exec_waitk_of_firstPressed_eq_some x hfirst, (agreeOutside_setReg s x _).mono fun _ => .inl⟩
    | none => exact ⟨_, exec_waitk_of_firstPressed_eq_none x hfirst, (agreeOutside_setPc s _).mono fun _ => .inr⟩
  | setdt => exact ⟨_, rfl, agreeOutside_setDT s _⟩
  | setst => exact ⟨_, rfl, agreeOutside_setST s _⟩
  | bcd x =>
    exact ⟨_, exec_bcd_of_le (digits_inRange h) x, agreeOutside_storeBytes_index s rfl⟩
  | stm x =>
    exact ⟨_, exec_stm_of_le (regs_inRange h), agreeOutside_storeBytes_index s (s.length_regsUpTo x)⟩
  | ldm x =>
    exact ⟨_, exec_ldm_of_le (regs_inRange h), agreeOutside_loadRegsUpTo s x⟩

/-! ### What no instruction, or only one, may change -/

theorem latch_notMem_effects (i : Instr) (s : State) : Component.latch ∉ effects i s := by
  cases i <;> simp [effects, State.dataCells]

theorem font_notMem_effects (i : Instr) (s : State) : Component.font ∉ effects i s := by
  cases i <;> simp [effects, State.dataCells]

theorem key_notMem_effects (i : Instr) (s : State) (k : Fin 16) : Component.key k ∉ effects i s := by
  cases i <;> simp [effects, State.dataCells]

theorem delay_mem_effects {i : Instr} {s : State} (h : Component.delay ∈ effects i s) : ∃ x, i = .setdt x := by
  cases i with
  | setdt x => exact ⟨x, rfl⟩
  | _ => simp [effects, State.dataCells] at h

theorem sound_mem_effects {i : Instr} {s : State} (h : Component.sound ∈ effects i s) : ∃ x, i = .setst x := by
  cases i with
  | setst x => exact ⟨x, rfl⟩
  | _ => simp [effects, State.dataCells] at h

/-! ### The obligations -/

/-- Settles O13: the instruction raises the fault whose condition holds, and raising only sets the latch. -/
theorem ownFaultOnlySetsTheLatch : Obligations.OwnFaultOnlySetsTheLatch := fun _ _ _ h =>
  exec_latches (exec_of_ownFault h)

/-- Settles O14: each instruction is one of the updates of the state whose frame is known. -/
theorem everyInstructionCompletesInItsFrame : Obligations.EveryInstructionCompletesInItsFrame := fun _ _ =>
  exec_completes

/-- A completion is told from a fault by the latch. -/
theorem ownFault_eq_none_of_running {i : Instr} {s t : State} (hexec : exec i s = .next t) (ht : t.Running) :
    ownFault i s = none := by
  by_contra hne
  obtain ⟨cause, hcause⟩ := Option.ne_none_iff_exists'.mp hne
  obtain ⟨t', hexec', hlatch, -⟩ := exec_latches (exec_of_ownFault hcause)
  obtain rfl : t' = t := next_unique hexec' hexec
  exact Option.some_ne_none _ (hlatch.symm.trans ht)

theorem flagByte_eq_zero_or_one (b : Bool) : flagByte b = 0x00#8 ∨ flagByte b = 0x01#8 := by
  cases b with
  | false => exact .inl rfl
  | true => exact .inr rfl

theorem State.setResultAndFlag_reg_vf (s : State) (x : Reg) (v : Byte) (flag : Bool) :
    (s.setResultAndFlag x v flag).reg vf = flagByte flag := by
  rw [State.reg_setResultAndFlag, if_pos rfl]

/-- Settles O31: the five arithmetic instructions and DRW write a flag to VF last; the frame of every other
instruction says when VF stays. -/
theorem sixInstructionsWriteTheFlag : Obligations.SixInstructionsWriteTheFlag := by
  intro i s t hwf _ hexec ht
  have hnone := ownFault_eq_none_of_running hexec ht
  obtain ⟨t', hexec', hframe⟩ := exec_completes hwf hnone
  obtain rfl : t' = t := next_unique hexec' hexec
  refine ⟨fun hflag => ?flag, fun _ hvf => hframe (.reg vf) hvf⟩
  case flag =>
    cases i with
    | add | sub | shr | subn | shl =>
      obtain rfl := Host.Outcome.next.inj hexec
      rw [State.setResultAndFlag_reg_vf]
      exact flagByte_eq_zero_or_one _
    | drw x y n =>
      obtain rfl := next_unique (exec_drw_of_inRange (sprite_inRange hnone) x y) hexec
      rw [State.afterDraw_reg_vf]
      exact flagByte_eq_zero_or_one _
    | _ => simp [Instr.mnemonic] at hflag

end Sys2Proof.Machine
end

section
/-! The tick (spec/40_tick_cycle.md, spec/60_exceptions.md section 1): the five ways it can end, and what each leaves
in the state. -/

namespace Sys2Proof.Machine

/-! ### The five ways a tick ends -/

/-- How a tick from `s` ends in `t`, in the order of R90 and R196. -/
inductive TickCase (s t : State) : Prop where
  /-- R194: a halted core's tick is inert. -/
  | halted (hhalt : s.Halted) (ht : t = s)
  /-- R92: the word at pc is not in memory. -/
  | fetchFault (hrun : s.Running) (hpc : s.pc.toNat > 0xFFE) (ht : t = s.raise .fetchOutOfBounds s.pc 0#16)
  /-- R94: the word is no instruction. -/
  | invalid (r : Reject) (hrun : s.Running) (hpc : s.pc.toNat ≤ 0xFFE) (hdec : decodeWord s.fetchWord = .error r)
      (ht : t = s.advance.raise .invalidOpcode s.pc s.fetchWord)
  /-- R193: the instruction raises its own fault. -/
  | faults (i : Instr) (cause : Cause) (hrun : s.Running) (hpc : s.pc.toNat ≤ 0xFFE)
      (hdec : decodeWord s.fetchWord = .ok i) (hfault : ownFault i s.advance = some cause)
      (ht : t = s.advance.raise cause s.pc s.fetchWord)
  /-- R94: the instruction completes. -/
  | completes (i : Instr) (hrun : s.Running) (hpc : s.pc.toNat ≤ 0xFFE) (hdec : decodeWord s.fetchWord = .ok i)
      (hfault : ownFault i s.advance = none) (hexec : exec i s.advance = .next t)
      (hframe : AgreeOutside (effects i s.advance) s.advance t)

/-- What a tick can do, said once. -/
theorem step_cases (s : State) : ∃ t, step s = .next t ∧ TickCase s t := by
  by_cases hrun : s.Running
  case neg => exact ⟨s, step_of_halted hrun, .halted hrun rfl⟩
  by_cases hpc : s.pc.toNat ≤ 0xFFE
  case neg =>
    have hgt : s.pc.toNat > 0xFFE := Nat.lt_of_not_le hpc
    exact ⟨_, step_of_fetchFault hrun hgt, .fetchFault hrun hgt rfl⟩
  cases hdec : decodeWord s.fetchWord with
  | error r => exact ⟨_, step_of_invalid hrun hpc hdec, .invalid r hrun hpc hdec rfl⟩
  | ok i =>
    obtain ⟨hword, hwf⟩ := encode_of_decodeWord hdec
    rw [step_of_decode hrun hpc hdec]
    cases hfault : ownFault i s.advance with
    | some cause =>
      refine ⟨_, exec_of_ownFault hfault, .faults i cause hrun hpc hdec hfault ?_⟩
      rw [State.fetchedFrom_advance, hword]
    | none =>
      obtain ⟨t, hexec, hframe⟩ := exec_completes hwf hfault
      exact ⟨t, hexec, .completes i hrun hpc hdec hfault hexec hframe⟩

theorem tickCase_of_step {s t : State} (h : step s = .next t) : TickCase s t := by
  obtain ⟨t', h', hcase⟩ := step_cases s
  obtain rfl : t' = t := next_unique h' h
  exact hcase

theorem agreeOutside_advance_raise (s : State) (cause : Cause) (addr op : Word16) :
    AgreeOutside {.pc, .latch} s (s.advance.raise cause addr op) := by
  intro c hc
  cases c with
  | pc => exact absurd (.inl rfl) hc
  | latch => exact absurd (.inr rfl) hc
  | _ => rfl

/-- A completed tick of a running core leaves it running. -/
theorem running_of_frame {i : Instr} {s t : State} (hrun : s.Running)
    (hframe : AgreeOutside (effects i s.advance) s.advance t) : t.Running :=
  (hframe .latch (latch_notMem_effects i s.advance)).trans hrun

theorem State.raise_halted (s : State) (cause : Cause) (addr op : Word16) : (s.raise cause addr op).Halted :=
  Option.some_ne_none _

/-! ### The obligations on faults -/

/-- Settles O7: raising the fetch fault only sets the latch. -/
theorem fetchOutsideMemoryLatchesItsFault : Obligations.FetchOutsideMemoryLatchesItsFault := fun s hrun hpc =>
  ⟨_, step_of_fetchFault hrun hpc, rfl, agreeOutside_raise s _ _ _⟩

/-- Settles O8: the fault is raised after pc has been advanced. -/
theorem invalidWordLatchesItsFault : Obligations.InvalidWordLatchesItsFault := by
  intro s op hrun hpc hop hdec
  obtain rfl : s.fetchWord = op := State.fetchWord_eq_of_toNat hop
  exact ⟨_, step_of_invalid hrun hpc hdec, rfl, rfl, agreeOutside_advance_raise s _ _ _⟩

/-- Settles O9: each of the five ways a tick ends is a next state. -/
theorem everyTickAnswersANextState : Obligations.EveryTickAnswersANextState := fun s =>
  (step_cases s).imp fun _ ht => ht.1

/-- Settles O11: a tick that halts is one of the three that raise a fault; a completed one latches nothing. -/
theorem faultingTickChangesOnlyLatchAndPc : Obligations.FaultingTickChangesOnlyLatchAndPc := by
  intro s t hrun hstep hhalt
  cases tickCase_of_step hstep with
  | halted hhalt' => exact absurd hrun hhalt'
  | fetchFault _ hpc ht =>
    subst ht
    exact ⟨(agreeOutside_raise s _ _ _).mono fun _ => .inr, .fetchOutOfBounds, fun _ => ⟨rfl, rfl⟩, fun hle => by omega⟩
  | invalid _ _ hpc _ ht =>
    subst ht
    exact ⟨agreeOutside_advance_raise s _ _ _, .invalidOpcode, fun hgt => by omega, fun _ => ⟨rfl, rfl⟩⟩
  | faults i cause _ hpc _ _ ht =>
    subst ht
    exact ⟨agreeOutside_advance_raise s _ _ _, cause, fun hgt => by omega, fun _ => ⟨rfl, rfl⟩⟩
  | completes i _ _ _ _ _ hframe => exact absurd (running_of_frame hrun hframe) hhalt

/-- Settles O12: the five ways a tick ends come in the order of R196, and each names what it latches. -/
theorem causeLatchedByATick : Obligations.CauseLatchedByATick := by
  intro s t hrun hstep
  cases tickCase_of_step hstep with
  | halted hhalt => exact absurd hrun hhalt
  | fetchFault _ hpc ht =>
    subst ht
    rw [if_pos hpc]
    rfl
  | invalid r _ hpc hdec ht =>
    subst ht
    rw [if_neg (by omega), hdec]
    rfl
  | faults i cause _ hpc hdec hfault ht =>
    subst ht
    rw [if_neg (by omega), hdec]
    exact hfault.symm
  | completes i _ hpc hdec hfault _ hframe =>
    rw [if_neg (by omega), hdec, show t.fault = none from running_of_frame hrun hframe]
    exact hfault.symm

/-- Settles O58: a raised fault leaves timers and keys, and of the 35 frames only those of SETDT and SETST hold a
timer, and none holds a key. -/
theorem tickMovesNoTimerAndNoKey : Obligations.TickMovesNoTimerAndNoKey := by
  intro s t hstep
  refine ⟨congrArg (settleOutcome s) hstep, ?_⟩
  cases tickCase_of_step hstep with
  | halted _ ht | fetchFault _ _ ht | invalid _ _ _ _ ht | faults _ _ _ _ _ _ ht =>
    subst ht
    exact ⟨fun h => absurd rfl h, fun h => absurd rfl h, fun _ => rfl⟩
  | completes i _ _ hdec _ _ hframe =>
    refine ⟨fun hDT => ?_, fun hST => ?_, fun k => hframe (.key k) (key_notMem_effects i s.advance k)⟩
    · obtain ⟨x, rfl⟩ := delay_mem_effects (not_imp_comm.mp (hframe .delay) hDT)
      exact ⟨x, hdec⟩
    · obtain ⟨x, rfl⟩ := sound_mem_effects (not_imp_comm.mp (hframe .sound) hST)
      exact ⟨x, hdec⟩

end Sys2Proof.Machine
end

section
/-! The value of pc after a tick (spec/40_tick_cycle.md R95). -/

namespace Sys2Proof.Machine

/-- A running core's tick that does not halt it, on a word that decodes, is the completion of that instruction. -/
theorem completes_of_running {s t : State} {i : Instr} (hstep : step s = .next t) (hrun : s.Running)
    (hpc : s.pc.toNat ≤ 0xFFE) (hdec : decodeWord s.fetchWord = .ok i) (ht : t.Running) :
    exec i s.advance = .next t ∧ ownFault i s.advance = none ∧ AgreeOutside (effects i s.advance) s.advance t := by
  have hexec : exec i s.advance = .next t := (step_of_decode hrun hpc hdec).symm.trans hstep
  have hfault := ownFault_eq_none_of_running hexec ht
  obtain ⟨t', hexec', hframe⟩ := exec_completes (encode_of_decodeWord hdec).2 hfault
  obtain rfl : t' = t := next_unique hexec' hexec
  exact ⟨hexec, hfault, hframe⟩

/-- The instructions of R95's first row, by mnemonic, leave pc where fetch put it. -/
theorem pc_notMem_effects {i : Instr} (s : State)
    (h : i.mnemonic ∈ ["NOP", "CLS", "LDI", "ADDI", "MOV", "OR", "AND", "XOR", "ADD", "SUB", "SHR", "SUBN", "SHL",
      "LDIX", "RND", "DRW", "GETDT", "SETDT", "SETST", "ADDIX", "FONT", "BCD", "STM", "LDM"]) :
    Component.pc ∉ effects i s := by
  cases i with
  | jp | jpv0 | call | ret | sei | snei | ser | sner | skp | sknp | waitk => simp [Instr.mnemonic] at h
  | _ => simp [effects, State.dataCells]

/-- R110 for a whole tick: a skip that is taken passes over the next word. -/
theorem pc_of_skip {i : Instr} {s t : State} {taken : Bool} {p : Prop} [Decidable p] (ht : exec i s.advance = .next t)
    (hexec : exec i s.advance = .next (s.advance.skipIf taken)) (htest : taken = true ↔ p) :
    t.pc = if p then s.pc + 4#16 else s.pc + 2#16 := by
  obtain ⟨t', hexec', hpc, -⟩ := exec_skips_iff hexec htest
  obtain rfl : t' = t := next_unique hexec' ht
  rw [hpc, State.advance_pc, BitVec.add_assoc]
  rfl

theorem pc_of_waitk {s t : State} {x : Reg} (ht : exec (.waitk x) s.advance = .next t) :
    t.pc = if ∃ k, s.key k = true then s.pc + 2#16 else s.pc := by
  cases hfirst : s.advance.firstPressed with
  | some k =>
    obtain rfl := next_unique (exec_waitk_of_firstPressed_eq_some x hfirst) ht
    exact (if_pos ⟨k, (State.firstPressed_eq_some.mp hfirst).1⟩).symm
  | none =>
    obtain rfl := next_unique (exec_waitk_of_firstPressed_eq_none x hfirst) ht
    have hnone : ¬∃ k, s.key k = true := fun ⟨k, hk⟩ =>
      Bool.false_ne_true ((State.firstPressed_eq_none.mp hfirst k).symm.trans hk)
    rw [if_neg hnone, State.setPc_back_advance]

theorem pc_of_call {s t : State} {nnn : BitVec 12} (ht : exec (.call nnn) s.advance = .next t)
    (hfault : ownFault (.call nnn) s.advance = none) :
    t.pc.toNat = nnn.toNat ∧
      ∀ k : Fin 16, k.val = s.sp.val → t.slot k = s.pc + 2#16 ∧ t.sp.val = s.sp.val + 1 := by
  obtain ⟨k, hk⟩ := exists_free_slot hfault
  obtain ⟨t', hexec, hslot, hsp, hpc, -⟩ := (callPushesAndJumps s.advance nnn).1 k hk
  obtain rfl : t' = t := next_unique hexec ht
  refine ⟨hpc, fun j hj => ?_⟩
  obtain rfl : j = k := Fin.ext (hj.trans hk)
  exact ⟨hslot, hj ▸ hsp⟩

theorem pc_of_ret {s t : State} {k : Fin 16} (ht : exec .ret s.advance = .next t) (hk : s.sp.val = k.val + 1) :
    t.pc = s.slot k := by
  obtain ⟨t', hexec, hpc, -⟩ := (retPopsIntoPc s.advance).1 k hk
  obtain rfl : t' = t := next_unique hexec ht
  exact hpc

theorem pc_of_jp {s t : State} {nnn : BitVec 12} (ht : exec (.jp nnn) s.advance = .next t) :
    t.pc.toNat = nnn.toNat := by
  obtain ⟨t', hexec, hpc, -⟩ := jpSetsPc s.advance nnn
  obtain rfl : t' = t := next_unique hexec ht
  exact hpc

theorem pc_of_jpv0 {s t : State} {nnn : BitVec 12} (ht : exec (.jpv0 nnn) s.advance = .next t) :
    t.pc.toNat = (s.reg 0).toNat + nnn.toNat := by
  obtain ⟨t', hexec, hpc, -⟩ := jpv0AddsV0 s.advance nnn
  obtain rfl : t' = t := next_unique hexec ht
  exact hpc

/-- Settles O10: the rows of R95 for faults are read off how the tick ended; the rows of the instructions off each
instruction's own meaning, run from the advanced pc. -/
theorem pcAfterATick : Obligations.PcAfterATick := by
  intro s t hrun hstep
  refine ⟨fun hgt => ?fetchFault, fun hle hhalt => ?fault, fun hle hinvalid => ?invalid,
    fun hle ht i hdec => ?completes⟩
  case fetchFault =>
    obtain rfl := next_unique (step_of_fetchFault hrun hgt) hstep
    exact ⟨rfl, State.raise_halted s _ _ _⟩
  case fault =>
    obtain ⟨-, cause, -, hpc⟩ := faultingTickChangesOnlyLatchAndPc s t hrun hstep hhalt
    exact (hpc hle).1
  case invalid =>
    obtain rfl := next_unique (step_of_invalid hrun hle hinvalid) hstep
    exact State.raise_halted s.advance _ _ _
  case completes =>
    obtain ⟨hexec, hfault, hframe⟩ := completes_of_running hstep hrun hle hdec ht
    refine ⟨fun hplain => hframe .pc (pc_notMem_effects s.advance hplain), ?_, ?_, ?_, ?_, ?_, ?_, ?_, ?_, ?_, ?_, ?_⟩
    · rintro x nn rfl
      exact pc_of_skip hexec (exec_sei x nn _) beq_iff_eq
    · rintro x nn rfl
      exact pc_of_skip hexec (exec_snei x nn _) bne_iff_ne
    · rintro x y rfl
      exact pc_of_skip hexec (exec_ser x y _) beq_iff_eq
    · rintro x y rfl
      exact pc_of_skip hexec (exec_sner x y _) bne_iff_ne
    · rintro x k rfl hk
      exact pc_of_skip hexec (exec_skp_of_key hk) Iff.rfl
    · rintro x k rfl hk
      exact pc_of_skip hexec (exec_sknp_of_key hk) (iff_of_eq (Bool.not_eq_true' _))
    · rintro nnn rfl
      exact pc_of_jp hexec
    · rintro nnn rfl
      exact pc_of_call hexec hfault
    · rintro k rfl hk
      exact pc_of_ret hexec hk
    · rintro nnn rfl
      exact pc_of_jpv0 hexec
    · rintro x rfl
      exact pc_of_waitk hexec

end Sys2Proof.Machine
end

section
/-! The invariant of spec/10_state.md R39: every tick and every host operation keeps it. -/

namespace Sys2Proof.Machine

/-! ### The invariant after an update -/

theorem State.Inv.pc_le {s : State} (h : s.Inv) : s.pc.toNat ≤ 0x10FE := h.2.1

theorem State.Inv.slot_le {s : State} (h : s.Inv) (k : Fin 16) : (s.slot k).toNat ≤ 0x1000 := h.2.2 k

/-- The invariant speaks of memory, FONT, pc and the stack; where the other three are kept, pc alone is checked. -/
theorem State.Inv.of_pc {s t : State} (h : s.Inv) (hmem : t.mem = s.mem) (hfont : t.font = s.font)
    (hstack : t.stack = s.stack) (hpc : t.pc.toNat ≤ 0x10FE) : t.Inv := by
  obtain ⟨hwf, -, hslots⟩ := h
  refine ⟨hmem ▸ hfont ▸ hwf, hpc, fun k => ?_⟩
  rw [State.slot, hstack]
  exact hslots k

theorem State.Inv.storeBytes {s : State} (h : s.Inv) {a : Nat} {bs : List Byte} (ha : a + bs.length ≤ 4096) :
    (s.storeBytes a bs).Inv := by
  obtain ⟨hwf, hpc, hslots⟩ := h
  exact ⟨Memory.wf_writeBytes hwf bs ha, hpc, hslots⟩

/-- A small step on from a pc in range does not wrap. -/
theorem toNat_pc_add {pc : Word16} (h : pc.toNat ≤ 0x10FE) {n : Nat} (hn : n ≤ 4) :
    (pc + BitVec.ofNat 16 n).toNat = pc.toNat + n := by
  rw [BitVec.toNat_add, BitVec.toNat_ofNat]
  omega

theorem State.Inv.skipIf {s : State} (h : s.Inv) (hpc : s.pc.toNat ≤ 0x1000) (taken : Bool) : (s.skipIf taken).Inv := by
  cases taken with
  | false => exact h
  | true => exact h.of_pc rfl rfl rfl (by
    rw [State.skipIf_pc, if_pos rfl, toNat_pc_add h.pc_le (by decide)]
    omega)

theorem State.Inv.pushed {s : State} (h : s.Inv) (k : Fin 16) {v : Word16} (hv : v.toNat ≤ 0x1000) :
    (s.pushed k v).Inv := by
  obtain ⟨hwf, hpc, hslots⟩ := h
  refine ⟨hwf, hpc, fun j => ?_⟩
  by_cases hj : j = k
  · rw [hj, State.pushed_slot_same]
    exact hv
  · rw [State.pushed_slot_of_ne s v hj]
    exact hslots j

theorem State.Inv.resetWith (font : Font) : (State.resetWith font).Inv := by
  refine ⟨Memory.wf_nil, ?_, fun k => ?_⟩
  · rw [State.resetWith_pc]
    decide
  · rw [State.slot_resetWith]
    decide

/-! ### The tick -/

theorem toNat_addrOperand_le (nnn : BitVec 12) : (addrOperand nnn).toNat ≤ 0x10FE := by
  rw [toNat_addrOperand]
  have := nnn.isLt
  omega

/-- An instruction executed with pc at A + 2, for an A whose word is in memory, keeps the invariant. -/
theorem exec_keeps_inv {i : Instr} {s t : State} (h : s.Inv) (hlo : 2 ≤ s.pc.toNat) (hhi : s.pc.toNat ≤ 0x1000)
    (hfault : ownFault i s = none) (hexec : exec i s = .next t) : t.Inv := by
  cases i with
  | nop | cls | ldi | addi | mov | or | and | xor | add | sub | shr | subn | shl | ldix | rnd | getdt | setdt | setst
  | addix | font =>
    obtain rfl := Host.Outcome.next.inj hexec
    exact h.of_pc rfl rfl rfl h.pc_le
  | sei | snei | ser | sner =>
    obtain rfl := Host.Outcome.next.inj hexec
    exact h.skipIf hhi _
  | jp nnn =>
    obtain rfl := Host.Outcome.next.inj hexec
    exact h.of_pc rfl rfl rfl (toNat_addrOperand_le nnn)
  | jpv0 nnn =>
    obtain rfl := Host.Outcome.next.inj hexec
    refine h.of_pc rfl rfl rfl ?_
    rw [State.setPc_pc, toNat_zext16_add_addrOperand]
    have := (s.reg 0).isLt
    have := nnn.isLt
    omega
  | call nnn =>
    obtain ⟨k, hk⟩ := exists_free_slot hfault
    obtain rfl := next_unique (exec_call_of_slot hk nnn) hexec
    exact (h.pushed k hhi).of_pc rfl rfl rfl (toNat_addrOperand_le nnn)
  | ret =>
    obtain ⟨k, hk⟩ := exists_top_slot hfault
    obtain rfl := next_unique (exec_ret_of_slot hk) hexec
    exact h.of_pc rfl rfl rfl (le_trans (h.slot_le k) (by decide))
  | skp x =>
    obtain ⟨k, hk⟩ := exists_key hfault
    obtain rfl := next_unique (exec_skp_of_key hk) hexec
    exact h.skipIf hhi _
  | sknp x =>
    obtain ⟨k, hk⟩ := exists_key hfault
    obtain rfl := next_unique (exec_sknp_of_key hk) hexec
    exact h.skipIf hhi _
  | waitk x =>
    cases hfirst : s.firstPressed with
    | some k =>
      obtain rfl := next_unique (exec_waitk_of_firstPressed_eq_some x hfirst) hexec
      exact h.of_pc rfl rfl rfl h.pc_le
    | none =>
      obtain rfl := next_unique (exec_waitk_of_firstPressed_eq_none x hfirst) hexec
      have hback : 2#16 ≤ s.pc := BitVec.le_def.mpr hlo
      refine h.of_pc rfl rfl rfl ?_
      rw [State.setPc_pc, BitVec.toNat_sub_of_le hback]
      exact le_trans (Nat.sub_le _ _) h.pc_le
  | drw x y n =>
    obtain rfl := next_unique (exec_drw_of_inRange (sprite_inRange hfault) x y) hexec
    exact h.of_pc rfl rfl rfl h.pc_le
  | bcd x =>
    have hle : s.I.toNat + 2 ≤ 0xFFF := digits_inRange hfault
    obtain rfl := next_unique (exec_bcd_of_le hle x) hexec
    exact h.storeBytes (Nat.succ_le_succ hle)
  | stm x =>
    have hle : s.I.toNat + x.val ≤ 0xFFF := regs_inRange hfault
    obtain rfl := next_unique (exec_stm_of_le hle) hexec
    exact h.storeBytes (by rw [State.length_regsUpTo]; omega)
  | ldm x =>
    obtain rfl := next_unique (exec_ldm_of_le (regs_inRange hfault)) hexec
    refine h.of_pc ?_ ?_ ?_ ?_ <;> simp [h.pc_le]

theorem toNat_advance_pc {s : State} (hpc : s.pc.toNat ≤ 0xFFE) : s.advance.pc.toNat = s.pc.toNat + 2 :=
  toNat_pc_add (by omega) (by decide)

theorem State.Inv.advance {s : State} (h : s.Inv) (hpc : s.pc.toNat ≤ 0xFFE) : s.advance.Inv := by
  have hadv := toNat_advance_pc hpc
  exact h.of_pc rfl rfl rfl (by omega)

theorem step_keeps_inv {s t : State} (h : s.Inv) (hstep : step s = .next t) : t.Inv := by
  cases tickCase_of_step hstep with
  | halted _ ht => exact ht ▸ h
  | fetchFault _ _ ht => exact ht ▸ h.of_pc rfl rfl rfl h.pc_le
  | invalid _ _ hpc _ ht => exact ht ▸ (h.advance hpc).of_pc rfl rfl rfl (h.advance hpc).pc_le
  | faults _ _ _ hpc _ _ ht => exact ht ▸ (h.advance hpc).of_pc rfl rfl rfl (h.advance hpc).pc_le
  | completes i _ hpc _ hfault hexec =>
    have hadv : s.advance.pc.toNat = s.pc.toNat + 2 := toNat_advance_pc hpc
    exact exec_keeps_inv (h.advance hpc) (by omega) (by omega) hfault hexec

/-! ### What the host's refusals and the other operations come to -/

/-- R173: an image that does not fit is refused. -/
theorem transact_load_of_length_gt {bytes : List Byte} (h : bytes.length > 3584) (s : State) :
    transact (.load bytes) s = (s, .refused .loadOutOfBounds) :=
  congrArg (settleOutcome s) (if_neg (Nat.not_le_of_lt h))

/-- R182: an index that names no key is refused. -/
theorem transact_keypress_of_gt {index : Nat} (h : index > 15) (pressed : Bool) (s : State) :
    transact (.keypress index pressed) s = (s, .refused .keypressOutOfRange) :=
  congrArg (settleOutcome s) (dif_neg (Nat.not_lt_of_le h))

theorem transact_tick {s t : State} (h : step s = .next t) : transact .tick s = (t, .done) :=
  congrArg (settleOutcome s) h

/-- A keypress is refused, or its index is a key's. -/
theorem keyIndex_cases (index : Nat) : index > 15 ∨ ∃ k : Fin 16, index = k.val := by
  by_cases h : index > 15
  · exact .inl h
  · exact .inr ⟨⟨index, by omega⟩, rfl⟩

theorem transact_keeps_inv (op : HostOp) {s : State} (h : s.Inv) : (transact op s).1.Inv := by
  cases op with
  | load bytes =>
    by_cases hfits : bytes.length ≤ 3584
    · rw [transact_load_of_length_le hfits]
      exact h.storeBytes (by omega)
    · rw [transact_load_of_length_gt (Nat.lt_of_not_le hfits)]
      exact h
  | reset => exact (State.Inv.resetWith s.font).of_pc rfl rfl rfl (State.Inv.resetWith s.font).pc_le
  | tick =>
    obtain ⟨t, hstep, -⟩ := step_cases s
    rw [transact_tick hstep]
    exact step_keeps_inv h hstep
  | tickTimer => exact h.of_pc rfl rfl rfl h.pc_le
  | keypress index pressed =>
    obtain hgt | ⟨k, rfl⟩ := keyIndex_cases index
    · rw [transact_keypress_of_gt hgt]
      exact h
    · rw [transact_keypress]
      exact h.of_pc rfl rfl rfl h.pc_le
  | getDisplay => exact h

theorem Reachable.inv {s : State} (h : Reachable s) : s.Inv := by
  induction h with
  | start font draws => exact (State.Inv.resetWith font).of_pc rfl rfl rfl (State.Inv.resetWith font).pc_le
  | after op _ ih => exact transact_keeps_inv op ih

/-! ### The obligations -/

/-- Settles O48: memory lists nothing, pc is 0x200 and every slot is 0. -/
theorem resetMeetsTheInvariant : Obligations.ResetMeetsTheInvariant :=
  ⟨State.Inv.resetWith conventionalFont, State.Inv.resetWith⟩

/-- Settles O49: pc is at most 0x1000 during execute, so what CALL pushes, a skip, a jump and WAITK stay in range; the
stores are checked against the end of memory. -/
theorem stepKeepsTheInvariant : Obligations.StepKeepsTheInvariant := fun _ _ => step_keeps_inv

/-- Settles O50: the tick keeps it, a load is bounded by its length, and no other operation writes memory, pc or the
stack but reset. -/
theorem transactionsKeepTheInvariant : Obligations.TransactionsKeepTheInvariant := fun op _ => transact_keeps_inv op

/-- Settles O51: the invariant holds at the start and every operation keeps it; from pc at most 0x10FE, pc + 4 does
not wrap. -/
theorem reachableStatesAreInRange : Obligations.ReachableStatesAreInRange := by
  intro s hreach
  obtain ⟨-, hpc, hslots⟩ := hreach.inv
  exact ⟨hpc, hslots, Nat.le_of_lt_succ s.sp.isLt, toNat_pc_add hpc (by decide)⟩

end Sys2Proof.Machine
end

section
/-! The host's operations over a halted core, over a countdown, and over FONT (spec/47_host_operations.md,
spec/60_exceptions.md sections 1 and 4). -/

namespace Sys2Proof.Machine

/-- Settles O56: the two checks come before any write. -/
theorem hostRefusalsChangeNothing : Obligations.HostRefusalsChangeNothing := fun s =>
  ⟨fun _ hlong => transact_load_of_length_gt hlong s, fun _ pressed hgt => transact_keypress_of_gt hgt pressed s⟩

/-- Settles O59: a halted tick is inert, reset sets the latch to none, and no other operation reads or writes the
latch. -/
theorem haltedOnlyResetClearsTheLatch : Obligations.HaltedOnlyResetClearsTheLatch := by
  intro op s hhalt
  refine ⟨?tick, ?reset, fun htick hreset => ?others⟩
  case tick =>
    rintro rfl
    exact transact_tick (step_of_halted hhalt)
  case reset =>
    rintro rfl
    exact State.resetWith_fault s.font
  case others =>
    cases op with
    | tick => exact absurd rfl htick
    | reset => exact absurd rfl hreset
    | load bytes =>
      by_cases hfits : bytes.length ≤ 3584
      · rw [transact_load_of_length_le hfits, transact_load_of_length_le hfits]
        exact ⟨rfl, rfl⟩
      · rw [transact_load_of_length_gt (Nat.lt_of_not_le hfits), transact_load_of_length_gt (Nat.lt_of_not_le hfits)]
        exact ⟨rfl, rfl⟩
    | tickTimer => exact ⟨rfl, rfl⟩
    | keypress index pressed =>
      obtain hgt | ⟨k, rfl⟩ := keyIndex_cases index
      · rw [transact_keypress_of_gt hgt, transact_keypress_of_gt hgt]
        exact ⟨rfl, rfl⟩
      · rw [transact_keypress, transact_keypress]
        exact ⟨rfl, rfl⟩
    | getDisplay => exact ⟨rfl, rfl⟩

theorem step_keeps_font {s t : State} (h : step s = .next t) : t.font = s.font := by
  cases tickCase_of_step h with
  | halted _ ht | fetchFault _ _ ht | invalid _ _ _ _ ht | faults _ _ _ _ _ _ ht =>
    subst ht
    rfl
  | completes i _ _ _ _ _ hframe => exact hframe .font (font_notMem_effects i s.advance)

/-- Settles O60: no instruction's frame holds FONT, and the host's reset copies it. -/
theorem fontIsAParameter : Obligations.FontIsAParameter := by
  intro op s
  cases op with
  | load bytes =>
    by_cases hfits : bytes.length ≤ 3584
    · rw [transact_load_of_length_le hfits]
      rfl
    · rw [transact_load_of_length_gt (Nat.lt_of_not_le hfits)]
  | tick =>
    obtain ⟨t, hstep, -⟩ := step_cases s
    rw [transact_tick hstep]
    exact step_keeps_font hstep
  | keypress index pressed =>
    obtain hgt | ⟨k, rfl⟩ := keyIndex_cases index
    · rw [transact_keypress_of_gt hgt]
    · rw [transact_keypress]
      rfl
  | reset | tickTimer | getDisplay => rfl

/-- A countdown from any ST: the sound event comes with the operation that finds ST at 1, which from ST = 0 never
comes. -/
theorem runHost_tickTimers (m : Nat) (s : State) :
    (runHost (List.replicate m .tickTimer) s).2 =
      (List.range m).map (fun k => if k + 1 = s.ST.toNat then Reply.sound else Reply.done) ∧
    (runHost (List.replicate m .tickTimer) s).1.DT.toNat = s.DT.toNat - m := by
  induction m generalizing s with
  | zero => exact ⟨rfl, rfl⟩
  | succ m ih =>
    obtain ⟨hreplies, hDT⟩ := ih ((s.setDT (countDown s.DT)).setST (countDown s.ST))
    rw [State.setST_ST, toNat_countDown] at hreplies
    rw [State.setST_DT, State.setDT_DT, toNat_countDown] at hDT
    rw [List.replicate_succ, runHost_cons, transact_tickTimer, hreplies, hDT, List.range_succ_eq_map, List.map_cons,
      List.map_map]
    have hfirst : s.ST.toNat = 1 ↔ 0 + 1 = s.ST.toNat := eq_comm
    have hrest (k : Nat) : k + 1 = s.ST.toNat - 1 ↔ k.succ + 1 = s.ST.toNat := by omega
    exact ⟨congrArg₂ List.cons (if_congr hfirst rfl rfl) (List.map_congr_left fun k _ => if_congr (hrest k) rfl rfl),
      by omega⟩

/-- Settles O54: the countdown of `runHost_tickTimers`, from an ST that is not 0. -/
theorem oneSoundEventPerCountdown : Obligations.OneSoundEventPerCountdown := fun s m _ => runHost_tickTimers m s

end Sys2Proof.Machine
end
